-- ==== Sys2Proof/Word.lean ====
section
/-! DEFINITION. The words of the block and nothing else.

Every quantity is unsigned (spec/30_encoding.md, spec/46_laws_and_system.md R240): a byte of a frame, a word of 32
bits, a time or timeout operand of 64 bits. The bit-field helpers stand in Decode.lean, the arithmetic of the rules in
Machine/Ops.lean. -/

namespace Sys2Proof

/-- `u8`: a field of the frame, an address, a priority, a checksum (R6). -/
abbrev Byte := BitVec 8

/-- `u32`: a payload word, the frame word, an id, a repeat period (R6). -/
abbrev Word32 := BitVec 32

/-- `u64`: an absolute time or a timeout as an operand latch carries it, in microseconds (R6, R27, R33). -/
abbrev Word64 := BitVec 64

end Sys2Proof
end

