-- ==== Sys2Proof/Config.lean ====
section
/-! DEFINITION. What an implementation fixes (spec/00_scope.md R7) and the two values the spec leaves open.

`Cfg` is the configuration record `CFG` of R7, field by field. A machine carries its record in `State.cfg`, which no
step writes, so that a statement over all states holds for every admissible configuration (93, U16) and a test runs on
the defaults of R7. -/

namespace Sys2Proof

/-- `WIRE_BIT_ORDER` (R7, R67): the order in which the serializer shifts the bits of a word. -/
inductive WireBitOrder where
  | msbFirst
  | lsbFirst
  deriving DecidableEq, Repr

/-- `CFG` (R7). The default of each field is R7's column "default", which serves the test vectors and claims nothing
about the hardware. -/
structure Cfg where
  /-- `MAX_PRIORITY`, 0..255: the schedule has one bucket more than this. -/
  maxPriority : Byte := 3
  /-- `SCHED_CAPACITY`: the most pending Transmissions, `none` for unbounded. -/
  schedCapacity : Option Nat := none
  /-- `BIT_PERIOD_NS`, above 0. -/
  bitPeriodNs : Nat := 500
  /-- `TIMEOUT_MARGIN_PERCENT`. -/
  timeoutMarginPercent : Nat := 20
  /-- `CHUNK_DELAY_NS_PER_COUNT`. -/
  chunkDelayNsPerCount : Nat := 100
  /-- `LINE_CHECK_WINDOW_NS`: timing only, no rule reads it (R8). -/
  lineCheckWindowNs : Nat := 1000
  /-- `INTER_WORD_TIMEOUT_US`. -/
  interWordTimeoutUs : Nat := 300
  /-- `RX_BUFFER_WORDS`, at least 258: capacity of the capture buffer and the buffer-exhaustion value. -/
  rxBufferWords : Nat := 258
  /-- `DRAIN_WAIT_NS`: timing only, no rule reads it (R8). -/
  drainWaitNs : Nat := 1000
  /-- `TRAILER_BITS`. -/
  trailerBits : Nat := 8
  /-- `WIRE_BIT_ORDER`. -/
  wireBitOrder : WireBitOrder := .msbFirst
  /-- `NO_TIMEOUT`: the value of `readTimeoutUs` that requests no timeout. -/
  noTimeout : Word64 := 0xFFFFFFFFFFFFFFFF#64
  deriving DecidableEq, Repr

/-- The admissible configurations: the bounds R7 and R360 (1) state. -/
abbrev Cfg.wf (c : Cfg) : Prop := 0 < c.bitPeriodNs ∧ 258 ≤ c.rxBufferWords

/-- The column "default" of R7. -/
def Cfg.default : Cfg := {}

/-- FREE VALUE. The 32-bit `count` an operation returns for `n` entries when `n` is 2^32 or more: R43 gives the result
32 bits and R240 says it is exact below 2^32 entries, and nothing states it beyond. No body: nothing can be proved of
it. DESIGN CHOICE, log entry 6. -/
opaque Config.countBeyond32Bits : Nat → Word32

/-- FREE VALUE. The word the capture unit stores for a frame tail that is a checksum byte with stray bits beside it, as
the `n`-th value the machine draws: R68 gives no result there and 93 U6 asks for any value. No body: nothing can be proved
of it. DESIGN CHOICE, log entry 28. -/
opaque Config.strayTail (n : Nat) : Word32

end Sys2Proof
end

