-- ==== Sys2Proof/Syntax.lean ====
section
/-! DEFINITION. The operations of the block and what carries them.

`Instr` has one constructor for each row of spec/opcode_table.json. Its operands are the values the operand latches
carry (spec/30_encoding.md R93); the record types are those of spec/10_state.md R20 and R21. `Port` is what is
presented to the block: an opcode with its latches (R90, R93), or a word of the wire (R96, R109). -/

namespace Sys2Proof

/-- A reference to a notification capability: an opaque token the block stores, returns and never reads
(R21, R140; DESIGN CHOICE of the token type, log entry 16). -/
structure Handle where
  token : Nat
  deriving DecidableEq, Repr

/-- `DIR` (R35, R102): 0 `INPUT`, 1 `OUTPUT`. -/
inductive Dir where
  | input
  | output
  deriving DecidableEq, Repr

/-- The four one-byte frame fields, in the source's order (R20, R95). -/
structure Frame where
  command : Byte
  recipientAddr : Byte
  senderAddr : Byte
  length : Byte
  deriving DecidableEq, Repr

/-- A Packet (R20). A value whose `length` differs from the number of payload words exists and is called malformed. -/
structure Packet where
  frame : Frame
  payload : List Word32
  deriving DecidableEq, Repr

/-- The chunking operand when it is present (R106). A `chunkWords` of 0 can be presented and is a contract violation. -/
structure Chunking where
  chunkWords : Nat
  delayCount : Word32
  deriving DecidableEq, Repr

/-- A Transmission (R21). `txTime` is an unbounded natural: a reschedule computes it in mathematical integers and must
not wrap (R168, R240, 93 U3; log entry 5). -/
structure Transmission where
  id : Word32
  priority : Byte
  txTime : Nat
  notifyTarget : Handle
  packet : Packet
  expectResponse : Bool
  expectedResponsePayloadWords : Word32
  autoRepeatPeriodUs : Word32
  autoRepeatEndTimeUs : Word64
  deriving DecidableEq, Repr

/-- The operands `add` and the endpoint's `add` share (R152 `x[1]`..`x[7]`, R191 `x[0]`..`x[6]`). -/
structure SendRequest where
  txTime : Word64
  notifyTarget : Handle
  packet : Packet
  expectResponse : Bool
  expectedResponsePayloadWords : Word32
  autoRepeatUs : Word32
  autoRepeatEndTimeUs : Word64
  deriving DecidableEq, Repr

/-- The tail of a frame as it stands on the bus (R68): the checksum byte, and what comes with it in bits `[31:8]`, all 0 in a
`CHECKSUM_WORD` as R68 and R109 lay it out and anything at all from a remote party that sends stray bits (93 U6). -/
structure Tail where
  checksum : Byte
  stray : BitVec 24
  deriving DecidableEq, Repr

/-- The operations. `k` selects a transceiver, `e` an endpoint (R93: the selector carried before `x[0]`). -/
inductive Instr where
  -- PK, packet functions (spec/40_packet.md)
  | pktGetCommand (p : Packet)
  | pktGetRecipient (p : Packet)
  | pktGetSender (p : Packet)
  | pktValid (p : Packet)
  | pktGetLength (p : Packet)
  | pktFrameword (p : Packet)
  | pktTotalbits (p : Packet)
  | pktTxduration (p : Packet)
  | pktChecksum (p : Packet)
  -- SC, scheduler commands (spec/42_scheduler.md)
  | add (priority : Byte) (req : SendRequest)
  | popnext (now : Word64)
  | cancelById (id : Word32)
  | cancelByRecipient (addr : Byte)
  | countRecipients (addr : Byte)
  | cancelAll
  | nextCadence (now : Word64) (period : Nat) (offset : Word64)
  -- EP, endpoint commands (spec/43_endpoint.md)
  | epAdd (e : Nat) (req : SendRequest)
  | epCancelById (e : Nat) (id : Word32)
  | epCancelByRecipient (e : Nat) (addr : Byte)
  | epCountRecipients (e : Nat) (addr : Byte)
  | epCancelAll (e : Nat)
  -- TR, transceiver commands (spec/44_transceiver_commands.md)
  | write (k : Nat) (p : Packet) (autostartRead : Bool) (readTimeoutUs : Word64) (chunking : Option Chunking)
  | startRead (k : Nat) (readTimeoutUs : Word64)
  | processEvents (k : Nat) (now : Word64)
  | lineCheck (k : Nat)
  -- EV, hardware events (spec/45_transceiver_events.md)
  | evTxdone (k : Nat)
  | evRxsig (k : Nat)
  -- EN, environment steps
  | enTxShift (k : Nat)
  | enRxCapture (k : Nat) (w : Word32)
  | enRxTransfer (k : Nat)
  -- HW, primitives of the hardware-transceiver interface
  | hwTxStart (k : Nat)
  | hwTxStop (k : Nat)
  | hwTxIsidle (k : Nat)
  | hwRxPrepare (k : Nat)
  | hwRxStart (k : Nat)
  | hwRxStop (k : Nat)
  | hwRxIsidle (k : Nat)
  | hwRxProgress (k : Nat)
  | hwDirSet (k : Nat) (d : Dir)
  -- CB, callbacks of the notification capability (spec/41_notification.md)
  | notifyStarted (target : Handle)
  | notifyFailed (target : Handle) (writeFailed readFailed : Bool)
  | notifyCompleted (target : Handle) (response : Packet)
  -- the two wire words of the table (R96, R109), as they reach a receiver
  | frameWord (k : Nat) (command recipientAddr senderAddr length : Byte)
  | checksumWord (k : Nat) (tail : Tail)
  deriving DecidableEq, Repr

/-- What one operand or result latch holds: a latch is as wide as the value it carries (R93). `zeros` is a latch all of
whose bits are 0, whatever its width; it reads as the zero of the type asked for, and every latch holds it at reset. -/
inductive Latch where
  | zeros
  | u1 (v : Bool)
  | u3 (v : BitVec 3)
  | u8 (v : Byte)
  | u32 (v : Word32)
  | u64 (v : Word64)
  | nat (v : Nat)
  | handle (v : Handle)
  | packet (v : Packet)
  | chunking (v : Option Chunking)
  | transmission (v : Option Transmission)
  | words (v : List Word32)
  deriving DecidableEq, Repr

/-- The operand latches `x[0..7]` (R93, R350). -/
structure Operands where
  x0 : Latch := .zeros
  x1 : Latch := .zeros
  x2 : Latch := .zeros
  x3 : Latch := .zeros
  x4 : Latch := .zeros
  x5 : Latch := .zeros
  x6 : Latch := .zeros
  x7 : Latch := .zeros
  deriving DecidableEq, Repr

/-- What is presented to the block in one step: an opcode with its instance selector and operand latches (R90, R93), or
a word of the wire reaching a receiver, at the front of a frame (R96, R97) or at its tail (R68, R109). -/
inductive Port where
  | command (op : Byte) (sel : Nat) (x : Operands)
  | wireFrame (sel : Nat) (w : Word32)
  | wireTail (sel : Nat) (w : Word32)
  deriving DecidableEq, Repr

/-- Why the decoder rejects what is presented. -/
inductive Reject where
  /-- The opcode has no row in R92 (R94). -/
  | reservedOpcode
  /-- An operand latch carries a value of another type than the operation's rule lists (R93). -/
  | operandType
  deriving DecidableEq, Repr

end Sys2Proof
end

