-- ==== Sys2Proof/WellFormed.lean ====
section
/-! DEFINITION. When the operands of an operation are of the types the spec writes for them.

Lean's types already fix every width. What is left are four bounds the spec puts in an operand's type and Lean's type
does not hold: a payload of at most 255 words (R20), a chunk size of at least 1 (R106), a cadence period above 0 (R168)
and a frame tail of 8 bits (R68). Values that break them can be presented: the machine answers as the operation's own rule
says (a malformed packet is an answer of `PKT_VALID`, R124; a contract violation elsewhere, R312; any stored word for a
tail with stray bits, 93 U6), so the decoder does not reject them. -/

namespace Sys2Proof

/-- R20: "sequence of u32 with 0 to 255 entries". -/
def Packet.payloadFits (p : Packet) : Bool := decide (p.payload.length ≤ 255)

/-- R106: "absent or a pair `{chunkWords: natural >= 1, delayCount: u32}`" (one presented value; braces of the record
are the spec's). -/
def chunkingTyped : Option Chunking → Bool
  | none => true
  | some c => decide (1 ≤ c.chunkWords)

/-- R168: "period, natural", above 0. -/
def periodTyped (period : Nat) : Bool := decide (0 < period)

/-- R68: the tail of a frame is a checksum byte zero-extended, with no stray bit. -/
def Tail.isByte (t : Tail) : Bool := t.stray == 0

/-- The operands of `i` are of the types its rule writes. -/
def Instr.wellFormed : Instr → Bool
  | .pktGetCommand p => p.payloadFits
  | .pktGetRecipient p => p.payloadFits
  | .pktGetSender p => p.payloadFits
  | .pktValid p => p.payloadFits
  | .pktGetLength p => p.payloadFits
  | .pktFrameword p => p.payloadFits
  | .pktTotalbits p => p.payloadFits
  | .pktTxduration p => p.payloadFits
  | .pktChecksum p => p.payloadFits
  | .add _ req => req.packet.payloadFits
  | .popnext _ => true
  | .cancelById _ => true
  | .cancelByRecipient _ => true
  | .countRecipients _ => true
  | .cancelAll => true
  | .nextCadence _ period _ => periodTyped period
  | .epAdd _ req => req.packet.payloadFits
  | .epCancelById _ _ => true
  | .epCancelByRecipient _ _ => true
  | .epCountRecipients _ _ => true
  | .epCancelAll _ => true
  | .write _ p _ _ ch => p.payloadFits && chunkingTyped ch
  | .startRead _ _ => true
  | .processEvents _ _ => true
  | .lineCheck _ => true
  | .evTxdone _ => true
  | .evRxsig _ => true
  | .enTxShift _ => true
  | .enRxCapture _ _ => true
  | .enRxTransfer _ => true
  | .hwTxStart _ => true
  | .hwTxStop _ => true
  | .hwTxIsidle _ => true
  | .hwRxPrepare _ => true
  | .hwRxStart _ => true
  | .hwRxStop _ => true
  | .hwRxIsidle _ => true
  | .hwRxProgress _ => true
  | .hwDirSet _ _ => true
  | .notifyStarted _ => true
  | .notifyFailed _ _ _ => true
  | .notifyCompleted _ response => response.payloadFits
  | .frameWord _ _ _ _ _ => true
  | .checksumWord _ tail => tail.isByte

end Sys2Proof
end

