-- ==== Sys2Proof/Decode.lean ====
section
/-! DEFINITION. The decoder of what is presented to the block, and the encoder beside it.

The opcode map is spec/30_encoding.md R92, the latches R93, the frame word R96, the checksum word R109. The decoder is
total: it answers an operation or rejects by name. Direction and field helpers stand here too, so that one text says
where each bit lies. -/

namespace Sys2Proof

/-! ### The fields of the two wire words -/

/-- `frameWord = command ## recipientAddr ## senderAddr ## length` (R96, R126). -/
def Frame.toWord (f : Frame) : Word32 := f.command ++ f.recipientAddr ++ f.senderAddr ++ f.length

/-- The fields of a frame word: bits 31:24, 23:16, 15:8 and 7:0 (R96). -/
def frameOfWord (w : Word32) : Frame where
  command := w.extractLsb' 24 8
  recipientAddr := w.extractLsb' 16 8
  senderAddr := w.extractLsb' 8 8
  length := w.extractLsb' 0 8

/-- `w[7:0]`: the byte of a checksum word that validation reads (R68, R110). -/
def lowByte (w : Word32) : Byte := w.extractLsb' 0 8

/-- The word of a tail: the checksum byte in bits 7:0, the stray bits in 31:8 (R68). -/
def Tail.toWord (t : Tail) : Word32 := t.stray ++ t.checksum

/-- A tail from its word: the checksum byte is bits 7:0, what stands beside it is bits 31:8 (R68). -/
def tailOfWord (w : Word32) : Tail where
  checksum := lowByte w
  stray := w.extractLsb' 8 24

/-- `zext_32` of a checksum byte (R68, R109). -/
def checksumToWord (c : Byte) : Word32 := c.setWidth 32

/-- R102: 0 `INPUT`, 1 `OUTPUT`. -/
def dirOfBit (b : Bool) : Dir := if b then .output else .input

/-- R102: 0 `INPUT`, 1 `OUTPUT`. -/
def dirBit : Dir → Bool
  | .input => false
  | .output => true

/-! ### Reading an operand latch at the type an operation's rule lists -/

/-- A latch read as one bit. -/
def Latch.asBit : Latch → Option Bool
  | .zeros => some false
  | .u1 v => some v
  | _ => none

/-- A latch read as a `u8`. -/
def Latch.asU8 : Latch → Option Byte
  | .zeros => some 0
  | .u8 v => some v
  | _ => none

/-- A latch read as a `u32`. -/
def Latch.asU32 : Latch → Option Word32
  | .zeros => some 0
  | .u32 v => some v
  | _ => none

/-- A latch read as a `u64`. -/
def Latch.asU64 : Latch → Option Word64
  | .zeros => some 0
  | .u64 v => some v
  | _ => none

/-- A latch read as a natural number. -/
def Latch.asNat : Latch → Option Nat
  | .zeros => some 0
  | .nat v => some v
  | _ => none

/-- A latch read as a notification handle. -/
def Latch.asHandle : Latch → Option Handle
  | .zeros => some ⟨0⟩
  | .handle v => some v
  | _ => none

/-- A latch read as a Packet; all bits 0 is the frame of four zero bytes with no payload. -/
def Latch.asPacket : Latch → Option Packet
  | .zeros => some ⟨⟨0, 0, 0, 0⟩, []⟩
  | .packet v => some v
  | _ => none

/-- A latch read as the chunking operand; all bits 0 is "absent". -/
def Latch.asChunking : Latch → Option (Option Chunking)
  | .zeros => some none
  | .chunking v => some v
  | _ => none

/-- The seven operands `add` and the endpoint's `add` share, from the latches that carry them. The defaults of
`autoRepeatUs` and `autoRepeatEndTimeUs` are 0 (R113, R152), which is what an unwritten latch reads as. -/
def sendRequestAt (txTime target packet expect words repeatUs endTime : Latch) : Option SendRequest :=
  txTime.asU64.bind fun a => target.asHandle.bind fun b => packet.asPacket.bind fun c => expect.asBit.bind fun d =>
    words.asU32.bind fun e => repeatUs.asU32.bind fun f => endTime.asU64.map fun g => ⟨a, b, c, d, e, f, g⟩

/-! ### Decode -/

/-- An operation whose latches carry the types its rule lists, or the rejection by name. -/
def typed : Option Instr → Except Reject Instr
  | some i => .ok i
  | none => .error .operandType

/-- The opcode map of R92 with the operand lists of the operations' rules. The target handle of a callback stands in the
instance selector, since the callback is the target's (R113): R141 to R143 name no latch for it, and that it stands there
is the model's choice (log entry 26). -/
def decodeCommand (op : Byte) (sel : Nat) (x : Operands) : Except Reject Instr :=
  match op with
  | 0x01#8 => typed (x.x0.asPacket.map .pktGetCommand)
  | 0x02#8 => typed (x.x0.asPacket.map .pktGetRecipient)
  | 0x03#8 => typed (x.x0.asPacket.map .pktGetSender)
  | 0x04#8 => typed (x.x0.asPacket.map .pktValid)
  | 0x05#8 => typed (x.x0.asPacket.map .pktGetLength)
  | 0x06#8 => typed (x.x0.asPacket.map .pktFrameword)
  | 0x07#8 => typed (x.x0.asPacket.map .pktTotalbits)
  | 0x08#8 => typed (x.x0.asPacket.map .pktTxduration)
  | 0x09#8 => typed (x.x0.asPacket.map .pktChecksum)
  | 0x10#8 => typed ((x.x0.asU8).bind fun pr => (sendRequestAt x.x1 x.x2 x.x3 x.x4 x.x5 x.x6 x.x7).map (.add pr))
  | 0x11#8 => typed (x.x0.asU64.map .popnext)
  | 0x12#8 => typed (x.x0.asU32.map .cancelById)
  | 0x13#8 => typed (x.x0.asU8.map .cancelByRecipient)
  | 0x14#8 => typed (x.x0.asU8.map .countRecipients)
  | 0x15#8 => .ok .cancelAll
  | 0x16#8 => typed (x.x0.asU64.bind fun now => x.x1.asNat.bind fun per => x.x2.asU64.map (.nextCadence now per))
  | 0x20#8 => typed ((sendRequestAt x.x0 x.x1 x.x2 x.x3 x.x4 x.x5 x.x6).map (.epAdd sel))
  | 0x22#8 => typed (x.x0.asU32.map (.epCancelById sel))
  | 0x23#8 => typed (x.x0.asU8.map (.epCancelByRecipient sel))
  | 0x24#8 => typed (x.x0.asU8.map (.epCountRecipients sel))
  | 0x25#8 => .ok (.epCancelAll sel)
  | 0x30#8 => typed (x.x0.asPacket.bind fun p => x.x1.asBit.bind fun a => x.x2.asU64.bind fun t => x.x3.asChunking.map (.write sel p a t))
  | 0x31#8 => typed (x.x0.asU64.map (.startRead sel))
  | 0x32#8 => typed (x.x0.asU64.map (.processEvents sel))
  | 0x33#8 => .ok (.lineCheck sel)
  | 0x40#8 => .ok (.evTxdone sel)
  | 0x41#8 => .ok (.evRxsig sel)
  | 0x48#8 => .ok (.enTxShift sel)
  | 0x49#8 => typed (x.x0.asU32.map (.enRxCapture sel))
  | 0x4A#8 => .ok (.enRxTransfer sel)
  | 0x50#8 => .ok (.hwTxStart sel)
  | 0x51#8 => .ok (.hwTxStop sel)
  | 0x52#8 => .ok (.hwTxIsidle sel)
  | 0x54#8 => .ok (.hwRxPrepare sel)
  | 0x55#8 => .ok (.hwRxStart sel)
  | 0x56#8 => .ok (.hwRxStop sel)
  | 0x57#8 => .ok (.hwRxIsidle sel)
  | 0x58#8 => .ok (.hwRxProgress sel)
  | 0x59#8 => typed (x.x0.asBit.map fun b => .hwDirSet sel (dirOfBit b))
  | 0x60#8 => .ok (.notifyStarted ⟨sel⟩)
  | 0x61#8 => typed (x.x0.asBit.bind fun wf => x.x1.asBit.map (.notifyFailed ⟨sel⟩ wf))
  | 0x62#8 => typed (x.x0.asPacket.map (.notifyCompleted ⟨sel⟩))
  | _ => .error .reservedOpcode

/-- What is presented, read as an operation or rejected by name. -/
def decode : Port → Except Reject Instr
  | .command op sel x => decodeCommand op sel x
  | .wireFrame sel w =>
    .ok (.frameWord sel (frameOfWord w).command (frameOfWord w).recipientAddr (frameOfWord w).senderAddr (frameOfWord w).length)
  | .wireTail sel w => .ok (.checksumWord sel (tailOfWord w))

/-- The bits of an opcode-table row as the block is presented with them: 8 bits are an opcode whose operand latches are
all zeros, 32 bits a word of the wire. A bare word of the wire does not say where in its frame it stands: one whose bits
`[31:8]` are 0 is read as the tail, any other as the front (log entry 4). -/
def portOfBits (nbits w : Nat) : Option Port :=
  if nbits = 8 then some (.command (BitVec.ofNat 8 w) 0 {})
  else if nbits = 32 then
    if (tailOfWord (BitVec.ofNat 32 w)).isByte then some (.wireTail 0 (BitVec.ofNat 32 w))
    else some (.wireFrame 0 (BitVec.ofNat 32 w))
  else none

/-- The operation the decoder reads from the bits `w` of an opcode-table row. -/
def decodeTableWord (nbits w : Nat) : Option Instr :=
  match portOfBits nbits w with
  | some p =>
    match decode p with
    | .ok i => some i
    | .error _ => none
  | none => none

/-! ### Encode -/

/-- What is presented for an operation: its opcode with its operand latches, or its wire word. -/
def encode : Instr → Port
  | .pktGetCommand p => .command 0x01#8 0 { x0 := .packet p }
  | .pktGetRecipient p => .command 0x02#8 0 { x0 := .packet p }
  | .pktGetSender p => .command 0x03#8 0 { x0 := .packet p }
  | .pktValid p => .command 0x04#8 0 { x0 := .packet p }
  | .pktGetLength p => .command 0x05#8 0 { x0 := .packet p }
  | .pktFrameword p => .command 0x06#8 0 { x0 := .packet p }
  | .pktTotalbits p => .command 0x07#8 0 { x0 := .packet p }
  | .pktTxduration p => .command 0x08#8 0 { x0 := .packet p }
  | .pktChecksum p => .command 0x09#8 0 { x0 := .packet p }
  | .add pr r => .command 0x10#8 0
      { x0 := .u8 pr, x1 := .u64 r.txTime, x2 := .handle r.notifyTarget, x3 := .packet r.packet, x4 := .u1 r.expectResponse,
        x5 := .u32 r.expectedResponsePayloadWords, x6 := .u32 r.autoRepeatUs, x7 := .u64 r.autoRepeatEndTimeUs }
  | .popnext now => .command 0x11#8 0 { x0 := .u64 now }
  | .cancelById id => .command 0x12#8 0 { x0 := .u32 id }
  | .cancelByRecipient a => .command 0x13#8 0 { x0 := .u8 a }
  | .countRecipients a => .command 0x14#8 0 { x0 := .u8 a }
  | .cancelAll => .command 0x15#8 0 {}
  | .nextCadence now per off => .command 0x16#8 0 { x0 := .u64 now, x1 := .nat per, x2 := .u64 off }
  | .epAdd e r => .command 0x20#8 e
      { x0 := .u64 r.txTime, x1 := .handle r.notifyTarget, x2 := .packet r.packet, x3 := .u1 r.expectResponse,
        x4 := .u32 r.expectedResponsePayloadWords, x5 := .u32 r.autoRepeatUs, x6 := .u64 r.autoRepeatEndTimeUs }
  | .epCancelById k w => .command 0x22#8 k { x0 := .u32 w }
  | .epCancelByRecipient k a => .command 0x23#8 k { x0 := .u8 a }
  | .epCountRecipients k a => .command 0x24#8 k { x0 := .u8 a }
  | .epCancelAll k => .command 0x25#8 k {}
  | .write k p a t ch => .command 0x30#8 k { x0 := .packet p, x1 := .u1 a, x2 := .u64 t, x3 := .chunking ch }
  | .startRead k t => .command 0x31#8 k { x0 := .u64 t }
  | .processEvents k t => .command 0x32#8 k { x0 := .u64 t }
  | .lineCheck k => .command 0x33#8 k {}
  | .evTxdone k => .command 0x40#8 k {}
  | .evRxsig k => .command 0x41#8 k {}
  | .enTxShift k => .command 0x48#8 k {}
  | .enRxCapture k w => .command 0x49#8 k { x0 := .u32 w }
  | .enRxTransfer k => .command 0x4A#8 k {}
  | .hwTxStart k => .command 0x50#8 k {}
  | .hwTxStop k => .command 0x51#8 k {}
  | .hwTxIsidle k => .command 0x52#8 k {}
  | .hwRxPrepare k => .command 0x54#8 k {}
  | .hwRxStart k => .command 0x55#8 k {}
  | .hwRxStop k => .command 0x56#8 k {}
  | .hwRxIsidle k => .command 0x57#8 k {}
  | .hwRxProgress k => .command 0x58#8 k {}
  | .hwDirSet k d => .command 0x59#8 k { x0 := .u1 (dirBit d) }
  | .notifyStarted n => .command 0x60#8 n.token {}
  | .notifyFailed n wf rf => .command 0x61#8 n.token { x0 := .u1 wf, x1 := .u1 rf }
  | .notifyCompleted n p => .command 0x62#8 n.token { x0 := .packet p }
  | .frameWord k c r s l => .wireFrame k (Frame.toWord ⟨c, r, s, l⟩)
  | .checksumWord k tail => .wireTail k tail.toWord

end Sys2Proof
end

