-- ==== Sys2Proof/Machine/State.lean ====
section
/-! DEFINITION. Everything the spec gives the machine (spec/10_state.md, spec/70_reset_and_hazards.md R350), as plain
data, with the reasons a step can stop and the state after reset.

One `State` is one scheduler, the endpoints bound to it, the transceiver instances and the command port. What the
environment and the foreground do next stands in `State.turns` (spec/20_memory.md R73: a run is a sequence of
indivisible steps of several agents). -/

namespace Sys2Proof.Machine

/-- The values of `STATE` and of `phase`, in the order of R100, which also gives their codes (R30). `writeFailed` and
`readFailed` are admitted as values of `STATE`, which no run reaches (93 U1; log entry 25). -/
inductive TState where
  | idle
  | writeInProgress
  | writeComplete
  | writeFailed
  | waitingForReadStart
  | readInProgress
  | readComplete
  | readFailed
  deriving DecidableEq, Repr

/-- `failureReason` (R44, R101), in the order of its codes. -/
inductive FailureReason where
  | none
  | crcInvalid
  | missingData
  | bufferOverflow
  | timeout
  deriving DecidableEq, Repr

/-- An item of `TXSEQ` (R104). -/
inductive TxItem where
  | bitcount (n : Nat)
  | word (w : Word32)
  | crc (c : Byte)
  | trailer
  | reentry
  | delaycount (d : Word32)
  deriving DecidableEq, Repr

/-- A symbol on the wire (R108). -/
inductive Symbol where
  | sof
  | w32 (w : Word32)
  | b8 (b : Byte)
  | gap (d : Word32)
  | eof
  deriving DecidableEq, Repr

/-- `RES`, the result record of `PROCESS_EVENTS` (R44, R103). -/
structure Res where
  phase : TState
  readBuffer : List Word32
  readBufferLen : Nat
  failureReason : FailureReason
  deriving DecidableEq, Repr

/-- A `PROCESS_EVENTS` call between its snapshot step and its act step (R39, R216): `SNAP` and the operand `now`. -/
structure Poll where
  snap : TState
  now : Word64
  deriving DecidableEq, Repr

/-- The state of one transceiver instance (R30 to R40, R44). -/
structure Trx where
  /-- `STATE` (R30). -/
  state : TState
  /-- `DEADLINE` (R31): absolute microseconds as an unbounded natural, `none` for unlimited (93 U3; log entry 5). -/
  deadline : Option Nat
  /-- `RESP_EXPECTED` (R32). -/
  respExpected : Bool
  /-- `READ_TIMEOUT` (R33). -/
  readTimeout : Word64
  /-- `LAST_PROGRESS` (R34). -/
  lastProgress : Nat
  /-- `LAST_PROGRESS_TIME` (R34). -/
  lastProgressTime : Word64
  /-- `DIR` (R35). -/
  dir : Dir
  /-- `TXSEQ` (R36, R62). -/
  txseq : List TxItem
  /-- `TX_POS` (R36). -/
  txPos : Nat
  /-- `TX_ARMED` (R36). -/
  txArmed : Bool
  /-- `RX_PREPARED` (R37). -/
  rxPrepared : Bool
  /-- `RX_ARMED` (R37). -/
  rxArmed : Bool
  /-- `RX_COUNT` (R37). -/
  rxCount : Nat
  /-- `RX_FIFO` (R37). -/
  rxFifo : List Word32
  /-- `RXBUF` (R38, R63): the words that hold a value, from index 0 (log entry 21). -/
  rxbuf : List Word32
  /-- `SNAP` (R39) with its call's `now`; the spec's own "none" between calls (log entry 11). -/
  poll : Option Poll
  /-- `WIRE_OUT` (R40). -/
  wireOut : List Symbol
  /-- `RES` (R44); its `readBuffer` is a copy (log entry 12). -/
  res : Res
  deriving DecidableEq, Repr

/-- Who takes a step (R10, R91, R243 (d)). -/
inductive Agent where
  /-- The foreground caller: `PK`, `SC`, `EP`, `TR` but `LINE_CHECK`. -/
  | foreground
  /-- The interrupt context: `EV`. -/
  | interrupt
  /-- The transmit shifter: `EN_TX_SHIFT`. -/
  | shifter
  /-- The receive capture unit: `EN_RX_CAPTURE`, `EN_RX_TRANSFER` and the wire words it is given. -/
  | capture
  /-- The driving loop, outside the block: `CB`. -/
  | drivingLoop
  /-- A test bench of the hardware-transceiver interface (R278): the `HW` primitives and `LINE_CHECK` on their own,
  which the block itself uses only inside other operations (log entry 9). -/
  | bench
  deriving DecidableEq, Repr

/-- One sample of the two signal lines (R28, R102): true is 1, high. -/
structure LineSample where
  lineA : Bool
  lineB : Bool
  deriving DecidableEq, Repr

/-- One operation presented by an agent, with what the inputs show in its step: the sample of `TIME` (R27) and the
samples a line check takes of `LINE_A` and `LINE_B` (R28, R206). -/
structure Request where
  agent : Agent
  time : Word64
  lines : List LineSample
  port : Port
  deriving DecidableEq, Repr

/-- What happens next (R73). -/
inductive Turn where
  /-- An agent takes a step. -/
  | issue (r : Request)
  /-- The foreground takes the act step of its open `PROCESS_EVENTS` call on transceiver `k` (R216). -/
  | resume (k : Nat)
  /-- The reset input is applied (R350, R353). -/
  | reset
  deriving DecidableEq, Repr

/-- How the last operation that reports to the command port ended (R13, R94). -/
inductive PortOutcome where
  | ok
  | notAccepted
  | failureReport
  | illegalOperation
  deriving DecidableEq, Repr

/-- The status outputs that are results of an operation (R41): the first result latch is `accepted` after the commands of
R42 and `count` after those of R43, and neither after any other operation (R42 "Set by those two commands only", R350
"valid only as the result of an operation"). -/
inductive ResultFlag where
  | none
  | accepted
  | count
  deriving DecidableEq, Repr

/-- The result latches (R93): a bank of their own, written by the operation, the components of its result in order. -/
structure Results where
  y0 : Latch := .zeros
  y1 : Latch := .zeros
  y2 : Latch := .zeros
  y3 : Latch := .zeros
  /-- Which status output `y0` is. -/
  flag : ResultFlag := .none
  deriving DecidableEq, Repr

/-- The kinds of contract violation (R301, R312). -/
inductive Violation where
  | malformedPacket
  | zeroChunk
  | zeroPeriod
  | priorityOutOfRange
  | scheduleFull
  deriving DecidableEq, Repr

/-- The machine. -/
structure State where
  /-- `CFG` (R7, R45): fixed for the life of the machine, no step writes it (log entry 15). -/
  cfg : Cfg
  /-- `EP_PRIORITY` of each endpoint instance (R26): fixed at construction, no step writes it. -/
  endpoints : List Byte
  /-- `NEXT_ID` (R23). -/
  nextId : Word32
  /-- `SCHED` (R24): bucket `p` at index `p`, its head first. -/
  sched : List (List Transmission)
  /-- The transceiver instances (R328), each with a state of its own. -/
  trx : List Trx
  /-- The opcode `op[7:0]` on the command port (R90); it and the latches below keep what the last operation left (log
  entry 27). -/
  op : Byte
  /-- The instance selector on the command port (R93). -/
  sel : Nat
  /-- The operand latches `x[0..7]` (R93). -/
  x : Operands
  /-- The result latches (R93); `accepted` (R42) and `count` (R43) are views of them. -/
  y : Results
  /-- The outcome of the last operation that reports to the port (R13). -/
  outcome : PortOutcome
  /-- The input `TIME`, as sampled at the current step (R27). -/
  time : Word64
  /-- The inputs `LINE_A` and `LINE_B`, as a line check in the current step samples them, in order (R28, R206). -/
  lines : List LineSample
  /-- THE MODEL'S OWN: how many free values the steps have drawn, so that each draw is a fresh one. It belongs to the
  environment, as what it counts does, and a reset keeps it (93 U6; log entry 28). -/
  draws : Nat
  /-- What the agents do next, the first turn first (R73; log entries 1 and 7). -/
  turns : List Turn
  deriving DecidableEq, Repr

/-- Why a run ends. -/
inductive Fault where
  /-- A broken precondition of the caller (R13, R312): raised by the operation that commits it, before any effect, with
  no defined next state. Safe: the spec gives a violation no successor. -/
  | contractViolation (kind : Violation)
  /-- A read of `RXBUF` at an index that holds no value (R63, 93 U11): raised by `PROCESS_EVENTS` in a state no run
  reaches, where `RX_COUNT` exceeds the words stored. Safe: the spec has a model fault such a read. -/
  | rxbufNoValue
  deriving DecidableEq, Repr

/-- Why something presented has no meaning. -/
inductive Refusal where
  /-- The instruction has no meaning in the model yet: raised by an arm of `exec` only. Safe. -/
  | notModelled (mnemonic : String)
  /-- The selector names no transceiver instance (R93): no operation can be issued to an instance that does not exist
  (R361). Raised by every operation on a transceiver. Safe. -/
  | noSuchTransceiver
  /-- The selector names no endpoint instance (R26: an endpoint does not exist before it is constructed). Raised by the
  endpoint commands. Safe. -/
  | noSuchEndpoint
  /-- An operand latch holds a value of another type than the operation's rule lists (R93). Raised by the fetch. Safe:
  the source's operations are typed calls and have no such case. -/
  | operandType
  deriving DecidableEq, Repr

/-- The outcome of a step of this machine. -/
abbrev Out := Host.Outcome State Fault Refusal

/-- `RES` after reset: nothing failed, nothing read (R44, R350). -/
def Res.reset : Res := ⟨.idle, [], 0, .none⟩

/-- A transceiver instance after reset (R350). -/
def Trx.reset (c : Cfg) : Trx where
  state := .idle
  deadline := none
  respExpected := false
  readTimeout := c.noTimeout
  lastProgress := 0
  lastProgressTime := 0
  dir := .input
  txseq := []
  txPos := 0
  txArmed := false
  rxPrepared := false
  rxArmed := false
  rxCount := 0
  rxFifo := []
  rxbuf := []
  poll := none
  wireOut := []
  res := Res.reset

/-- The machine right after it is constructed with configuration `c`, endpoints of the priorities `eps` and `n`
transceiver instances (R350, R360): every bucket empty, every instance at rest. The latches, the outcome and the inputs
have no reset value in the spec; the values here are the model's (log entry 3). -/
def State.resetWith (c : Cfg) (eps : List Byte) (n : Nat) : State where
  cfg := c
  endpoints := eps
  nextId := 0
  sched := List.replicate (c.maxPriority.toNat + 1) []
  trx := List.replicate n (Trx.reset c)
  op := 0
  sel := 0
  x := {}
  y := {}
  outcome := .ok
  time := 0
  lines := [⟨true, true⟩]
  draws := 0
  turns := []

/-- The machine after reset: the default configuration of R7, one endpoint for each of its priorities and one
transceiver instance (log entry 2). -/
def State.reset : State := State.resetWith Cfg.default [0, 1, 2, 3] 1

end Sys2Proof.Machine
end

