-- ==== Sys2Proof/Machine/Operands.lean ====
section
/-! DEFINITION. How an operation's operands and inputs are read: the checks on a packet and a chunking operand, the
sample of `TIME`, the draw of the line check, and the instance a selector names.

The operand latches themselves are read by the decoder (spec/30_encoding.md R93, Decode.lean). -/

namespace Sys2Proof.Machine

/-- `now` of a step without a time operand: the sample of `TIME` taken at the step (R27). -/
def State.now (s : State) : Nat := s.time.toNat

/-- A line of the pair is low in this sample (R28: 1 is high, the idle level). -/
def LineSample.low (l : LineSample) : Bool := !l.lineA || !l.lineB

/-- The draw of `LINE_CHECK` (R206): some sample taken in the window saw a line low (log entry 23). -/
def lineLowSeen (lines : List LineSample) : Bool := lines.any LineSample.low

/-- `LINE_CHECK` (R206): the lines are clear. -/
def State.linesClear (s : State) : Bool := !lineLowSeen s.lines

/-- `readTimeoutUs` as a deadline from `now` (R212, R262): none for `NO_TIMEOUT`, else `now + readTimeoutUs` in
mathematical integers (R240). -/
def deadlineFrom (c : Cfg) (now : Nat) (readTimeoutUs : Word64) : Option Nat :=
  if readTimeoutUs = c.noTimeout then none else some (now + readTimeoutUs.toNat)

/-- The chunking operand breaks its precondition: present with `chunkWords = 0` (R202 (b)). -/
def zeroChunk : Option Chunking → Bool
  | none => false
  | some ch => ch.chunkWords == 0

/-- The validity check (R124): at most 255 payload words and the declared length equal to their number. -/
def packetValid (p : Packet) : Bool := decide (p.payload.length ≤ 255) && decide (p.frame.length.toNat = p.payload.length)

/-- An operation on transceiver `k` (R93): `f` applied to that instance; refused where there is none (log entry 8). -/
def onTrx (s : State) (k : Nat) (f : Trx → Out) : Out :=
  match s.trx[k]? with
  | some t => f t
  | none => .refused .noSuchTransceiver

/-- An operation on endpoint `e` (R93): `f` applied to its `EP_PRIORITY`; refused where there is none (log entry 8). -/
def onEndpoint (s : State) (e : Nat) (f : Byte → Out) : Out :=
  match s.endpoints[e]? with
  | some p => f p
  | none => .refused .noSuchEndpoint

end Sys2Proof.Machine
end

