-- ==== Sys2Proof/Machine/Flags.lean ====
section
/-! DEFINITION. The status outputs. The block has no arithmetic condition codes (spec/10_state.md R41): its outputs are
`accepted`, `count` and `RES`, and the outcome word of spec/00_scope.md R13. This file holds their codes
(spec/30_encoding.md R100, R101) and the one operation that writes the result latches. -/

namespace Sys2Proof.Machine

/-- The 3-bit code of `STATE` and `phase` (R100). -/
def TState.code : TState → BitVec 3
  | .idle => 0
  | .writeInProgress => 1
  | .writeComplete => 2
  | .writeFailed => 3
  | .waitingForReadStart => 4
  | .readInProgress => 5
  | .readComplete => 6
  | .readFailed => 7

/-- The 3-bit code of `failureReason` (R101); 5 to 7 are never produced. -/
def FailureReason.code : FailureReason → BitVec 3
  | .none => 0
  | .crcInvalid => 1
  | .missingData => 2
  | .bufferOverflow => 3
  | .timeout => 4

/-- Write the outcome and the result latches of an operation, the whole bank (R93: a component the operation does not
have leaves its latch at zeros; log entry 3). What is written stays until the next operation that reports (log entry 27). -/
def State.report (s : State) (o : PortOutcome) (r : Results) : State := { s with outcome := o, y := r }

/-- The operation ran and its result has one component (R13 `ok`). -/
def State.answer (s : State) (v : Latch) : State := s.report .ok { y0 := v }

/-- `accepted` (R42): 1 when the operation that last wrote the result latches was a `WRITE` or a `START_READ` that took
effect, 0 when it was one that was refused; none when it was any other operation (R350; log entry 27). -/
def State.accepted (s : State) : Option Bool :=
  match s.y.flag, s.y.y0 with
  | .accepted, .u1 b => some b
  | _, _ => none

/-- `count` (R43): the number of entries removed or matched, when the operation that last wrote the result latches was a
cancel or a count command; none when it was any other operation (R350; log entry 27). -/
def State.count (s : State) : Option Word32 :=
  match s.y.flag, s.y.y0 with
  | .count, .u32 n => some n
  | _, _ => none

/-- A count result of `n` entries (R43, R240): exact below 2^32 entries, free beyond (log entry 6). -/
def countResult (n : Nat) : Word32 := if n < 2 ^ 32 then BitVec.ofNat 32 n else Config.countBeyond32Bits n

/-- The operation ran and its result is a `count` (R43). -/
def State.answerCount (s : State) (n : Word32) : State := s.report .ok { y0 := .u32 n, flag := .count }

/-- A command of the transceiver took effect (R42). -/
def State.accept (s : State) : State := s.report .ok { y0 := .u1 true, flag := .accepted }

/-- A command of the transceiver was refused and changes nothing but its result (R13, R42, R310). -/
def State.notAccept (s : State) : State := s.report .notAccepted { y0 := .u1 false, flag := .accepted }

/-- The result latches of `PROCESS_EVENTS` (R103). -/
def Res.latches (r : Res) : Results where
  y0 := .u3 r.phase.code
  y1 := .words r.readBuffer
  y2 := .nat r.readBufferLen
  y3 := .u3 r.failureReason.code

/-- R13: a `processEvents` that returned `WRITE_FAILED` or `READ_FAILED` with a reason is a failure report. -/
def Res.outcome (r : Res) : PortOutcome := if r.failureReason = .none then .ok else .failureReport

end Sys2Proof.Machine
end

