-- ==== Sys2Proof/Machine/Ops.lean ====
section
/-! DEFINITION. The named operations: the arithmetic of the rules, the accesses to the four stores
(spec/20_memory.md R60 to R65), the schedule (spec/42_scheduler.md), the primitives of the hardware-transceiver
interface (spec/45_transceiver_events.md R280 to R288), the transmit sequence (spec/30_encoding.md R104 to R108), the
checksum (spec/40_packet.md R130), a failure report and a contract violation as one shared operation each
(spec/60_exceptions.md R302, R312). -/

namespace Sys2Proof.Machine

/-! ### Arithmetic (R11, R240) -/

/-- The least integer not below `a / b` (R11). -/
def ceilDiv (a b : Nat) : Nat := (a + (b - 1)) / b

/-- `computeNextTimeCadence` in mathematical integers, for `period > 0` (R168). -/
def nextCadenceTime (now period offset : Nat) : Nat :=
  now + (offset % period + period - now % period) % period

/-! ### Abnormal outcomes -/

/-- TAKING A CONTRACT VIOLATION (R13, R312): the operation writes no state and the run ends there
(log entry 18). -/
def violate (kind : Violation) : Out := .fault (.contractViolation kind)

/-- TAKING AN ILLEGAL OPERATION (R94, R314): refused, with no effect but the reported outcome
(log entry 10). -/
def State.illegal (s : State) : State := { s with outcome := .illegalOperation }

/-! ### The packet model (spec/40_packet.md) -/

/-- `xor8` (R130): the exclusive-or of the four bytes of a word. -/
def xor8 (w : Word32) : Byte := w.extractLsb' 24 8 ^^^ w.extractLsb' 16 8 ^^^ w.extractLsb' 8 8 ^^^ w.extractLsb' 0 8

/-- `checksumWords` (R130): the running byte-wise XOR, started at 0x00. -/
def checksumWords (ws : List Word32) : Byte := ws.foldl (fun c w => c ^^^ xor8 w) 0

/-- `PKT_CHECKSUM` (R130): over the frame word and every payload word. -/
def packetChecksum (p : Packet) : Byte := checksumWords (p.frame.toWord :: p.payload)

/-- `PKT_TOTALBITS` (R127). -/
def packetTotalBits (c : Cfg) (p : Packet) : Nat := 32 * (1 + p.payload.length) + c.trailerBits

/-- `PKT_TXDURATION` in nanoseconds (R128): it follows the `length` field. -/
def packetTxDuration (c : Cfg) (p : Packet) : Nat := 32 * (1 + p.frame.length.toNat) * c.bitPeriodNs

/-! ### The transmit sequence -/

/-- The number of chunks (R106): 1 when chunking is absent. -/
def chunkCount (len : Nat) : Option Chunking → Nat
  | none => 1
  | some ch => max 1 (ceilDiv len ch.chunkWords)

/-- The payload words of chunk `j` (R106). -/
def chunkWordsOf (payload : List Word32) (j : Nat) : Option Chunking → List Word32
  | none => payload
  | some ch => (payload.drop (j * ch.chunkWords)).take ch.chunkWords

/-- The delay count of the header of a chunk after the first (R106). -/
def chunkDelay : Option Chunking → Word32
  | none => 0
  | some ch => ch.delayCount

/-- Chunk `j` of `n` (R105, R106): the re-entry marker and the delay count stand in every chunk but the first, the frame
word at the front of the first, the checksum byte and the trailer in the last, and the bit count is that of the data
bits that follow, the checksum's 8 included. -/
def chunkItems (p : Packet) (c : Byte) (ch : Option Chunking) (n j : Nat) : List TxItem :=
  let ws := (if j = 0 then [p.frame.toWord] else []) ++ chunkWordsOf p.payload j ch
  let bits := 32 * ws.length + (if j + 1 = n then 8 else 0)
  (if j = 0 then [.bitcount bits] else [.reentry, .bitcount bits, .delaycount (chunkDelay ch)])
    ++ ws.map .word ++ (if j + 1 = n then [.crc c, .trailer] else [])

/-- `buildSequence(packet, c, chunking)` (R204): the chunks in order. -/
def buildSequence (p : Packet) (c : Byte) (ch : Option Chunking) : List TxItem :=
  let n := chunkCount p.frame.length.toNat ch
  (List.range n).flatMap (chunkItems p c ch n)

/-- The total of the chunking delays in nanoseconds (R107). -/
def chunkGapNs (cfg : Cfg) (len : Nat) (ch : Option Chunking) : Nat :=
  (chunkCount len ch - 1) * (chunkDelay ch).toNat * cfg.chunkDelayNsPerCount

/-- `writeBudgetUs` (R207): the duration enlarged by the margin, plus the gaps, rounded up to whole microseconds. -/
def writeBudgetUs (cfg : Cfg) (p : Packet) (ch : Option Chunking) : Nat :=
  ceilDiv (packetTxDuration cfg p * (100 + cfg.timeoutMarginPercent) + 100 * chunkGapNs cfg p.frame.length.toNat ch) 100000

/-- The symbols an item puts on the wire (R108). -/
def TxItem.symbols : TxItem → List Symbol
  | .bitcount _ => []
  | .word w => [.w32 w]
  | .crc c => [.b8 c]
  | .trailer => [.eof]
  | .reentry => []
  | .delaycount d => [.gap d]

/-! ### The order of the bits of a word on the wire (R67, R108, R270; log entry 24) -/

/-- The bits of a value in the order the serializer shifts them. -/
def serialize (o : WireBitOrder) {n : Nat} (v : BitVec n) : List Bool :=
  match o with
  | .msbFirst => (List.ofFn fun i : Fin n => v.getLsbD i).reverse
  | .lsbFirst => List.ofFn fun i : Fin n => v.getLsbD i

/-- The number whose bits, least significant first, are `bs`. -/
def natOfBits : List Bool → Nat
  | [] => 0
  | b :: bs => b.toNat + 2 * natOfBits bs

/-- The word the capture unit reassembles from bits off the bus, the inverse of the serializer's order; fewer than 32
bits, a checksum byte's 8, are zero-extended (R67, R68, R270). -/
def reassemble (o : WireBitOrder) (bs : List Bool) : Word32 :=
  match o with
  | .msbFirst => BitVec.ofNat 32 (natOfBits bs.reverse)
  | .lsbFirst => BitVec.ofNat 32 (natOfBits bs)

/-- The word the capture unit takes off the bus for a word, or for a checksum byte, that the remote party sends: the sender
shifts its bits out and the unit reassembles them, both in `WIRE_BIT_ORDER` (R67, R68, R270). -/
def offBus (c : Cfg) {n : Nat} (v : BitVec n) : Word32 := reassemble c.wireBitOrder (serialize c.wireBitOrder v)

/-- The data bits a symbol puts on the bus, in the order of `WIRE_BIT_ORDER`; the start, the stop and a gap carry none
(R98, R108). -/
def Symbol.bits (c : Cfg) : Symbol → List Bool
  | .w32 w => serialize c.wireBitOrder w
  | .b8 b => serialize c.wireBitOrder b
  | .sof => []
  | .gap _ => []
  | .eof => []

/-- The data bits a transceiver has put on the bus since reset, the first one first: `WIRE_OUT` as the bus shows it
(R40, R108, R243 (c)). -/
def Trx.busBits (c : Cfg) (t : Trx) : List Bool := t.wireOut.flatMap (Symbol.bits c)

/-- The operands of the captures a symbol leads to at a receiver (R270, R274): the word of a 32-bit word, `zext_32` of the
checksum byte, none for a start, a gap or a stop. -/
def Symbol.captured : Symbol → List Word32
  | .w32 w => [w]
  | .b8 b => [checksumToWord b]
  | .sof => []
  | .gap _ => []
  | .eof => []

/-! ### The schedule (spec/42_scheduler.md) -/

/-- `MemRead(SCHED, (p, k))` (R61). -/
def schedRead (sched : List (List Transmission)) (p k : Nat) : Option Transmission := sched[p]?.bind (·[k]?)

/-- `total(SCHED)` (R150). -/
def schedTotal (sched : List (List Transmission)) : Nat := (sched.map List.length).sum

/-- `orderedInsert` (R151): after every entry whose `txTime` is not later. -/
def orderedInsert (l : List Transmission) (t : Transmission) : List Transmission :=
  l.take (l.countP fun e => decide (e.txTime ≤ t.txTime)) ++ t :: l.drop (l.countP fun e => decide (e.txTime ≤ t.txTime))

/-- The schedule has no room (R152, R154): `SCHED_CAPACITY` is a number and is reached. -/
def schedFull (c : Cfg) (sched : List (List Transmission)) : Bool :=
  match c.schedCapacity with
  | none => false
  | some cap => decide (cap ≤ schedTotal sched)

/-- The Transmission `add` makes of its operands (R152). -/
def transmissionOf (id : Word32) (priority : Byte) (r : SendRequest) : Transmission where
  id := id
  priority := priority
  txTime := r.txTime.toNat
  notifyTarget := r.notifyTarget
  packet := r.packet
  expectResponse := r.expectResponse
  expectedResponsePayloadWords := r.expectedResponsePayloadWords
  autoRepeatPeriodUs := r.autoRepeatUs
  autoRepeatEndTimeUs := r.autoRepeatEndTimeUs

/-- `ADD` on the shared scheduler (R152), which `EP_ADD` expands to (R191). -/
def schedAdd (s : State) (priority : Byte) (r : SendRequest) : Out :=
  if s.cfg.maxPriority < priority then violate .priorityOutOfRange
  else if schedFull s.cfg s.sched then violate .scheduleFull
  else .next ({ s with
    nextId := s.nextId + 1
    sched := s.sched.modify priority.toNat fun b => orderedInsert b (transmissionOf s.nextId priority r) }.answer (.u32 s.nextId))

/-- The copy an auto-repeat leaves when `h` is popped at `now`, if any (R157). -/
def nextOccurrence (now : Nat) (h : Transmission) : Option Transmission :=
  if h.autoRepeatPeriodUs.toNat = 0 then none
  else
    let next := nextCadenceTime (max now (h.txTime + 1)) h.autoRepeatPeriodUs.toNat h.txTime
    if h.autoRepeatEndTimeUs.toNat = 0 ∨ next < h.autoRepeatEndTimeUs.toNat then some { h with txTime := next } else none

/-- The bucket a popped head leaves (R156, R157): its tail, with the copy inserted where there is one. -/
def bucketAfterPop (now : Nat) (h : Transmission) (tl : List Transmission) : List Transmission :=
  match nextOccurrence now h with
  | none => tl
  | some c => orderedInsert tl c

/-- The scan of `POPNEXT` (R156): the first bucket, in ascending order, whose head is due; the head it removes and the
schedule it leaves. -/
def popScan (now : Nat) : List (List Transmission) → Option (Transmission × List (List Transmission))
  | [] => none
  | [] :: rest => (popScan now rest).map fun r => (r.1, [] :: r.2)
  | (h :: tl) :: rest =>
    if h.txTime ≤ now then some (h, bucketAfterPop now h tl :: rest)
    else (popScan now rest).map fun r => (r.1, (h :: tl) :: r.2)

/-- The number of pending entries that satisfy `q` (R150). -/
def schedCount (q : Transmission → Bool) (sched : List (List Transmission)) : Nat := (sched.map (List.countP q)).sum

/-- The schedule with every entry that satisfies `q` removed, the others in their order (R160). -/
def schedRemove (q : Transmission → Bool) (sched : List (List Transmission)) : List (List Transmission) :=
  sched.map (List.filter fun e => !q e)

/-- `CANCEL_BY_ID`, `CANCEL_BY_RECIPIENT` and `CANCEL_ALL` (R160, R162, R166): remove what matches, report how many. -/
def schedCancel (s : State) (q : Transmission → Bool) : State :=
  { s with sched := schedRemove q s.sched }.answerCount (countResult (schedCount q s.sched))

/-- The test of `CANCEL_BY_ID` (R160). -/
def hasId (id : Word32) (e : Transmission) : Bool := e.id == id

/-- The test of `CANCEL_BY_RECIPIENT` and `COUNT_RECIPIENTS` (R162, R164): the whole address, for equality. -/
def hasRecipient (addr : Byte) (e : Transmission) : Bool := e.packet.frame.recipientAddr == addr

/-! ### The stores of a transceiver (R62 to R65) -/

/-- `MemRead(TXSEQ, i)` (R62). -/
def Trx.txRead (t : Trx) (i : Nat) : Option TxItem := t.txseq[i]?

/-- `MemRead(RXBUF, i)` (R63): no value at or above `RX_COUNT`. -/
def Trx.rxRead (t : Trx) (i : Nat) : Option Word32 := if i < t.rxCount then t.rxbuf[i]? else none

/-- `RXBUF[0 .. n-1]`, each of which must hold a value (R63). -/
def Trx.rxReadFirst (t : Trx) (n : Nat) : Option (List Word32) :=
  if n ≤ t.rxCount ∧ n ≤ t.rxbuf.length then some (t.rxbuf.take n) else none

/-- `MemWrite(RXBUF, i, w)` (R63): the words below `i`, then `w`, then those above. -/
def rxWrite (buf : List Word32) (i : Nat) (w : Word32) : List Word32 := buf.take i ++ w :: buf.drop (i + 1)

/-! ### The hardware-transceiver interface (R280 to R288) and the environment's steps (R264 to R272) -/

/-- `HW_TX_START` (R280). -/
def Trx.txStart (t : Trx) : Trx := { t with txPos := 0, txArmed := true, wireOut := t.wireOut ++ [.sof] }

/-- `HW_TX_STOP` (R281). -/
def Trx.txStop (t : Trx) : Trx := { t with txArmed := false }

/-- `HW_TX_ISIDLE` (R282). -/
def Trx.txIsIdle (t : Trx) : Bool := !t.txArmed

/-- `HW_RX_PREPARE` (R283): counter, queue and buffer cleared, nothing enabled. -/
def Trx.rxPrepare (t : Trx) : Trx := { t with rxCount := 0, rxFifo := [], rxbuf := [], rxPrepared := true }

/-- `HW_RX_START` (R284): arm capture. -/
def Trx.rxStart (t : Trx) : Trx := { t with rxCount := 0, rxFifo := [], rxbuf := [], rxPrepared := false, rxArmed := true }

/-- `HW_RX_STOP` (R285). -/
def Trx.rxStop (t : Trx) : Trx := { t with rxArmed := false, rxPrepared := false }

/-- `HW_RX_ISIDLE` (R286). -/
def Trx.rxIsIdle (t : Trx) : Bool := !t.rxArmed

/-- `HW_RX_PROGRESS` (R287): words stored so far. -/
def Trx.rxProgress (t : Trx) : Nat := t.rxCount

/-- `HW_DIR_SET` (R288). -/
def Trx.dirSet (t : Trx) (d : Dir) : Trx := { t with dir := d }

/-- `EV_TXDONE` is enabled (R264): armed, and the whole of `TXSEQ` consumed. -/
def Trx.txDoneEnabled (t : Trx) : Bool := t.txArmed && decide (t.txPos = t.txseq.length)

/-- `EV_RXSIG` and `EN_RX_CAPTURE` are enabled (R267, R270). -/
def Trx.captureEnabled (t : Trx) : Bool := t.rxArmed

/-- One step of the shifter (R268), without effect when it is not enabled (93 U9, D21; log entry 19). -/
def Trx.shift (t : Trx) : Trx :=
  if t.txArmed then
    match t.txRead t.txPos with
    | some item => { t with wireOut := t.wireOut ++ item.symbols, txPos := t.txPos + 1 }
    | none => t
  else t

/-- A word comes off the bus (R270), without effect when capture is not armed (93 U9, D21). -/
def Trx.capture (t : Trx) (w : Word32) : Trx := if t.captureEnabled then { t with rxFifo := t.rxFifo ++ [w] } else t

/-- A captured word is stored and counted (R272, R63), without effect when it is not enabled (R64; 93 U9, D21). -/
def Trx.transfer (c : Cfg) (t : Trx) : Trx :=
  match t.rxFifo with
  | [] => t
  | w :: rest =>
    if t.rxCount < c.rxBufferWords then
      { t with rxbuf := rxWrite t.rxbuf t.rxCount w, rxCount := t.rxCount + 1, rxFifo := rest }
    else t

/-- `n` transfers. -/
def Trx.transfers (c : Cfg) : Nat → Trx → Trx
  | 0, t => t
  | n + 1, t => Trx.transfers c n (t.transfer c)

/-- The drain of `PROCESS_EVENTS` (R224): every residual word that fits (log entry 13). -/
def Trx.drain (c : Cfg) (t : Trx) : Trx := Trx.transfers c t.rxFifo.length t

/-! ### The handlers of the interrupt context (R262, R266) -/

/-- The transmit-complete handler (R262). -/
def Trx.onTxDone (c : Cfg) (now : Nat) (t : Trx) : Trx :=
  if t.respExpected then
    { (t.txStop.rxStart.dirSet .input) with deadline := deadlineFrom c now t.readTimeout, state := .waitingForReadStart }
  else { t.txStop with state := .writeComplete }

/-- The receive handler (R266). -/
def Trx.onRxSig (now : Word64) (t : Trx) : Trx :=
  match t.state with
  | .waitingForReadStart => { t with lastProgress := t.rxProgress, lastProgressTime := now, state := .readInProgress }
  | .readInProgress => { t.rxStop with state := .readComplete }
  | _ => t

/-! ### `WRITE` and `START_READ` (R201, R212) -/

/-- The effects of an accepted `WRITE` (R201, R208). -/
def Trx.acceptWrite (c : Cfg) (now : Nat) (p : Packet) (autostartRead : Bool) (readTimeoutUs : Word64)
    (ch : Option Chunking) (t : Trx) : Trx :=
  let started := { t with txseq := buildSequence p (packetChecksum p) ch, txPos := 0 }.txStart
  let armed := if autostartRead then started.rxPrepare else started
  { (armed.dirSet .output) with
    respExpected := autostartRead
    readTimeout := readTimeoutUs
    deadline := some (now + writeBudgetUs c p ch)
    state := .writeInProgress }

/-- The effects of an accepted `START_READ` (R212). -/
def Trx.acceptRead (c : Cfg) (now : Nat) (readTimeoutUs : Word64) (t : Trx) : Trx :=
  { (t.rxStart.dirSet .input) with deadline := deadlineFrom c now readTimeoutUs, state := .waitingForReadStart }

/-! ### `PROCESS_EVENTS` (R214 to R236) -/

/-- The snapshot step (R216; log entry 11). -/
def Trx.snapshot (now : Word64) (t : Trx) : Trx := { t with poll := some ⟨t.state, now⟩ }

/-- The end of the act step: `RES` is written whole and the snapshot is gone (R218, R39). -/
def Trx.finish (t : Trx) (r : Res) : Trx := { t with res := r, poll := none }

/-- TAKING A FAILURE REPORT (R302): `STATE` is `IDLE` and `RES` holds the failed phase and its reason; the hardware the
failing phase used is stopped by the branch before it reports. -/
def Trx.reportFailure (t : Trx) (phase : TState) (reason : FailureReason) : Trx :=
  { t with state := .idle }.finish ⟨phase, [], 0, reason⟩

/-- A branch that reports no failure and does not write `STATE` (R218). -/
def Trx.reportPhase (t : Trx) (snap : TState) : Trx := t.finish ⟨snap, [], 0, .none⟩

/-- The validation of a captured frame (R225 to R228), after the drain: zero words, length under-run, checksum, success,
in that order. A read of `RXBUF` where no value stands is a fault (R63, 93 U11). -/
def Trx.validate (t : Trx) : Except Fault Res :=
  if t.rxProgress = 0 then .ok ⟨.readFailed, [], 0, .missingData⟩
  else
    match t.rxRead 0 with
    | none => .error .rxbufNoValue
    | some f =>
      let len := (frameOfWord f).length.toNat
      if t.rxProgress < len + 2 then .ok ⟨.readFailed, [], 0, .missingData⟩
      else
        match t.rxReadFirst (len + 1), t.rxRead (1 + len) with
        | some ws, some cw =>
          if checksumWords ws = lowByte cw then .ok ⟨.readComplete, ws, len + 1, .none⟩
          else .ok ⟨.readFailed, [], 0, .crcInvalid⟩
        | _, _ => .error .rxbufNoValue

/-- The branch `SNAP = READ_COMPLETE` (R224 to R228): drain, validate, back to `IDLE`. -/
def Trx.actReadComplete (c : Cfg) (t : Trx) : Except Fault Trx :=
  match (t.drain c).validate with
  | .ok r => .ok ({ t.drain c with state := .idle }.finish r)
  | .error e => .error e

/-- The branch `SNAP = READ_IN_PROGRESS` (R229 to R231): overflow, inter-word timeout, still running. -/
def Trx.actReadInProgress (c : Cfg) (now : Word64) (t : Trx) : Trx :=
  if c.rxBufferWords ≤ t.rxProgress then t.rxStop.reportFailure .readFailed .bufferOverflow
  else if t.rxProgress = t.lastProgress ∧ t.lastProgressTime.toNat + c.interWordTimeoutUs < now.toNat then
    t.rxStop.reportFailure .readFailed .timeout
  else if t.rxProgress = t.lastProgress then t.reportPhase .readInProgress
  else { t with lastProgress := t.rxProgress, lastProgressTime := now }.reportPhase .readInProgress

/-- `now` has passed the deadline (R232): strictly later, never when there is none. -/
def Trx.expired (now : Word64) (t : Trx) : Bool :=
  match t.deadline with
  | none => false
  | some d => decide (d < now.toNat)

/-- The branch of the other non-idle snapshots (R232 to R235). -/
def Trx.actDeadline (now : Word64) (snap : TState) (t : Trx) : Trx :=
  if t.expired now then
    if snap = .waitingForReadStart then t.rxStop.reportFailure .readFailed .timeout
    else (t.txStop.rxStop.dirSet .input).reportFailure .writeFailed .timeout
  else t.reportPhase snap

/-- The act step (R214 step 2, R218): the branch is chosen by `SNAP` alone. -/
def Trx.act (c : Cfg) (q : Poll) (t : Trx) : Except Fault Trx :=
  match q.snap with
  | .readComplete => t.actReadComplete c
  | .writeComplete => .ok ({ t with state := .idle }.reportPhase .writeComplete)
  | .readInProgress => .ok (t.actReadInProgress c q.now)
  | .idle => .ok (t.reportPhase .idle)
  | .writeInProgress => .ok (t.actDeadline q.now .writeInProgress)
  | .waitingForReadStart => .ok (t.actDeadline q.now .waitingForReadStart)
  | .writeFailed => .ok (t.actDeadline q.now .writeFailed)
  | .readFailed => .ok (t.actDeadline q.now .readFailed)

/-! ### One transceiver of the machine -/

/-- Transceiver `k` replaced; the other instances share nothing with it (R328). -/
def State.setTrx (s : State) (k : Nat) (t : Trx) : State := { s with trx := s.trx.set k t }

/-- The tail of a frame reaches the capture unit of transceiver `k`, whose state is `t` (R68, R270): a checksum byte is
captured zero-extended, and for a byte with stray bits beside it an armed unit captures a free value, which is drawn afresh
(93 U6; log entry 28). Capture not armed, there is no effect (log entry 19). -/
def State.captureTail (s : State) (k : Nat) (t : Trx) (tail : Tail) : State :=
  if tail.isByte then s.setTrx k (t.capture (offBus s.cfg tail.checksum))
  else if t.captureEnabled then { s.setTrx k (t.capture (Config.strayTail s.draws)) with draws := s.draws + 1 }
  else s

/-! ### The canonical form of the stores -/

/-- A bucket is sorted by `txTime`, ascending (R24). -/
abbrev bucketSorted (b : List Transmission) : Prop := b.Pairwise fun a e => a.txTime ≤ e.txTime

/-- The stores of a transceiver are in their one form: `RXBUF` lists exactly the words that hold a value, no more than
it has room for, and the shifter has consumed no more items than there are (R36, R37, R63). -/
abbrev Trx.storesWf (c : Cfg) (t : Trx) : Prop :=
  t.rxbuf.length = t.rxCount ∧ t.rxCount ≤ c.rxBufferWords ∧ t.txPos ≤ t.txseq.length

/-- The schedule is in its form: one bucket for each priority, each sorted and holding only its own priority, and no
more entries than there is room for (R24, R61). -/
abbrev schedWf (c : Cfg) (sched : List (List Transmission)) : Prop :=
  sched.length = c.maxPriority.toNat + 1 ∧ (∀ b ∈ sched, bucketSorted b) ∧
    (∀ p : Fin sched.length, ∀ e ∈ sched[p], e.priority.toNat = p) ∧
    (∀ cap ∈ c.schedCapacity, schedTotal sched ≤ cap)

/-- The stores of the machine are in canonical form, so that equal contents are equal data. -/
abbrev Memory.wf (s : State) : Prop := schedWf s.cfg s.sched ∧ ∀ t ∈ s.trx, t.storesWf s.cfg

end Sys2Proof.Machine
end

