-- ==== Sys2Proof/Machine/Endpoint.lean ====
section
/-! DEFINITION. Class `EP`: the endpoint scheduler (spec/43_endpoint.md R190 to R195). Each command expands to one
operation on the shared scheduler (R114), all of whose entries it reaches (R190, R195). -/

namespace Sys2Proof.Machine

/-- `EP_ADD` (R191): `ADD` with the endpoint's own priority. -/
def execEpAdd (e : Nat) (r : SendRequest) (s : State) : Out := onEndpoint s e fun p => schedAdd s p r

/-- `EP_CANCEL_BY_ID` (R192). -/
def execEpCancelById (e : Nat) (id : Word32) (s : State) : Out :=
  onEndpoint s e fun _ => .next (schedCancel s (hasId id))

/-- `EP_CANCEL_BY_RECIPIENT` (R193). -/
def execEpCancelByRecipient (e : Nat) (addr : Byte) (s : State) : Out :=
  onEndpoint s e fun _ => .next (schedCancel s (hasRecipient addr))

/-- `EP_COUNT_RECIPIENTS` (R194). -/
def execEpCountRecipients (e : Nat) (addr : Byte) (s : State) : Out :=
  onEndpoint s e fun _ => .next (s.answerCount (countResult (schedCount (hasRecipient addr) s.sched)))

/-- `EP_CANCEL_ALL` (R195): every bucket, whoever added the entry. -/
def execEpCancelAll (e : Nat) (s : State) : Out := onEndpoint s e fun _ => .next (schedCancel s fun _ => true)

end Sys2Proof.Machine
end

