-- ==== Sys2Proof/Machine/Environment.lean ====
section
/-! DEFINITION. Class `EN`: the steps of the transmit shifter and of the receive capture unit
(spec/45_transceiver_events.md R268 to R272), and the two wire words of the opcode table as they reach a receiver
(spec/30_encoding.md R96, R97, R109; log entry 4). A step that is not enabled has no effect (93 U9, D21;
log entry 19). -/

namespace Sys2Proof.Machine

/-- `EN_TX_SHIFT` (R268). -/
def execEnTxShift (k : Nat) (s : State) : Out := onTrx s k fun t => .next (s.setTrx k t.shift)

/-- `EN_RX_CAPTURE` (R270): the word the remote party sent, off the bus in the order of its bits there. -/
def execEnRxCapture (k : Nat) (w : Word32) (s : State) : Out :=
  onTrx s k fun t => .next (s.setTrx k (t.capture (offBus s.cfg w)))

/-- `EN_RX_TRANSFER` (R272). -/
def execEnRxTransfer (k : Nat) (s : State) : Out := onTrx s k fun t => .next (s.setTrx k (t.transfer s.cfg))

/-- `FRAME_WORD` (R96, R97): the first word of a frame reaches the capture unit, which takes it off the bus (R270). -/
def execFrameWord (k : Nat) (command recipientAddr senderAddr length : Byte) (s : State) : Out :=
  onTrx s k fun t =>
    .next (s.setTrx k (t.capture (offBus s.cfg (Frame.toWord ⟨command, recipientAddr, senderAddr, length⟩))))

/-- `CHECKSUM_WORD` (R68, R109): the tail of a frame reaches the capture unit, which takes it off the bus as the word
`zext_32` of its byte (R270), or as any word where stray bits stand beside the byte (93 U6). -/
def execChecksumWord (k : Nat) (tail : Tail) (s : State) : Out := onTrx s k fun t => .next (s.captureTail k t tail)

end Sys2Proof.Machine
end

