-- ==== Sys2Proof/Machine/Events.lean ====
section
/-! DEFINITION. Class `EV`: the two hardware events and their handlers (spec/45_transceiver_events.md R260 to R267). A
signal that is not enabled is no move of the hardware; admitted, it has no effect (R264, 93 U9, D21). -/

namespace Sys2Proof.Machine

/-- `EV_TXDONE` (R262, R264). -/
def execEvTxdone (k : Nat) (s : State) : Out :=
  onTrx s k fun t => if t.txDoneEnabled then .next (s.setTrx k (t.onTxDone s.cfg s.now)) else .next s

/-- `EV_RXSIG` (R266, R267). -/
def execEvRxsig (k : Nat) (s : State) : Out :=
  onTrx s k fun t => if t.captureEnabled then .next (s.setTrx k (t.onRxSig s.time)) else .next s

end Sys2Proof.Machine
end

