-- ==== Sys2Proof/Machine/Notification.lean ====
section
/-! DEFINITION. Class `CB`: the callbacks of the notification capability (spec/41_notification.md). The driving loop
invokes them outside the block, and "A model gives the three callbacks no effect on the block's state" (R140). -/

namespace Sys2Proof.Machine

/-- `NOTIFY_STARTED` (R141): no effect on the block. -/
def execNotifyStarted (_target : Handle) (s : State) : Out := .next s

/-- `NOTIFY_FAILED` (R142): no effect on the block. -/
def execNotifyFailed (_target : Handle) (_writeFailed _readFailed : Bool) (s : State) : Out := .next s

/-- `NOTIFY_COMPLETED` (R143): no effect on the block. -/
def execNotifyCompleted (_target : Handle) (_response : Packet) (s : State) : Out := .next s

end Sys2Proof.Machine
end

