-- ==== Sys2Proof/Machine/Packets.lean ====
section
/-! DEFINITION. Class `PK`: the packet functions (spec/40_packet.md R120 to R130). Pure: each writes its result latch
and nothing else. -/

namespace Sys2Proof.Machine

/-- `PKT_GET_COMMAND` (R121). -/
def execPktGetCommand (p : Packet) (s : State) : Out := .next (s.answer (.u8 p.frame.command))

/-- `PKT_GET_RECIPIENT` (R122). -/
def execPktGetRecipient (p : Packet) (s : State) : Out := .next (s.answer (.u8 p.frame.recipientAddr))

/-- `PKT_GET_SENDER` (R123). -/
def execPktGetSender (p : Packet) (s : State) : Out := .next (s.answer (.u8 p.frame.senderAddr))

/-- `PKT_VALID` (R124). -/
def execPktValid (p : Packet) (s : State) : Out := .next (s.answer (.u1 (packetValid p)))

/-- `PKT_GET_LENGTH` (R125). -/
def execPktGetLength (p : Packet) (s : State) : Out := .next (s.answer (.u8 p.frame.length))

/-- `PKT_FRAMEWORD` (R126). -/
def execPktFrameword (p : Packet) (s : State) : Out := .next (s.answer (.u32 p.frame.toWord))

/-- `PKT_TOTALBITS` (R127). -/
def execPktTotalbits (p : Packet) (s : State) : Out := .next (s.answer (.nat (packetTotalBits s.cfg p)))

/-- `PKT_TXDURATION` (R128). -/
def execPktTxduration (p : Packet) (s : State) : Out := .next (s.answer (.nat (packetTxDuration s.cfg p)))

/-- `PKT_CHECKSUM` (R130). -/
def execPktChecksum (p : Packet) (s : State) : Out := .next (s.answer (.u8 (packetChecksum p)))

end Sys2Proof.Machine
end

