-- ==== Sys2Proof/Machine/Primitives.lean ====
section
/-! DEFINITION. Class `HW`: the primitives of the hardware-transceiver interface (spec/45_transceiver_events.md R278 to
R288), each as a step of its own, which only a test bench takes (log entry 9); the commands and handlers use the same
operations inside their own steps. -/

namespace Sys2Proof.Machine

/-- `HW_TX_START` (R280). -/
def execHwTxStart (k : Nat) (s : State) : Out := onTrx s k fun t => .next (s.setTrx k t.txStart)

/-- `HW_TX_STOP` (R281). -/
def execHwTxStop (k : Nat) (s : State) : Out := onTrx s k fun t => .next (s.setTrx k t.txStop)

/-- `HW_TX_ISIDLE` (R282). -/
def execHwTxIsidle (k : Nat) (s : State) : Out := onTrx s k fun t => .next (s.answer (.u1 t.txIsIdle))

/-- `HW_RX_PREPARE` (R283). -/
def execHwRxPrepare (k : Nat) (s : State) : Out := onTrx s k fun t => .next (s.setTrx k t.rxPrepare)

/-- `HW_RX_START` (R284). -/
def execHwRxStart (k : Nat) (s : State) : Out := onTrx s k fun t => .next (s.setTrx k t.rxStart)

/-- `HW_RX_STOP` (R285). -/
def execHwRxStop (k : Nat) (s : State) : Out := onTrx s k fun t => .next (s.setTrx k t.rxStop)

/-- `HW_RX_ISIDLE` (R286). -/
def execHwRxIsidle (k : Nat) (s : State) : Out := onTrx s k fun t => .next (s.answer (.u1 t.rxIsIdle))

/-- `HW_RX_PROGRESS` (R287). -/
def execHwRxProgress (k : Nat) (s : State) : Out := onTrx s k fun t => .next (s.answer (.nat t.rxProgress))

/-- `HW_DIR_SET` (R288). -/
def execHwDirSet (k : Nat) (d : Dir) (s : State) : Out := onTrx s k fun t => .next (s.setTrx k (t.dirSet d))

end Sys2Proof.Machine
end

