-- ==== Sys2Proof/Machine/Scheduler.lean ====
section
/-! DEFINITION. Class `SC`: the prioritized scheduler (spec/42_scheduler.md R150 to R170). -/

namespace Sys2Proof.Machine

/-- `ADD` (R152, R154). -/
def execAdd (priority : Byte) (r : SendRequest) (s : State) : Out := schedAdd s priority r

/-- `POPNEXT` (R156) with its reschedule step (R157). -/
def execPopnext (now : Word64) (s : State) : Out :=
  match popScan now.toNat s.sched with
  | some (h, sched) => .next ({ s with sched := sched }.answer (.transmission (some h)))
  | none => .next (s.answer (.transmission none))

/-- `CANCEL_BY_ID` (R160). -/
def execCancelById (id : Word32) (s : State) : Out := .next (schedCancel s (hasId id))

/-- `CANCEL_BY_RECIPIENT` (R162). -/
def execCancelByRecipient (addr : Byte) (s : State) : Out := .next (schedCancel s (hasRecipient addr))

/-- `COUNT_RECIPIENTS` (R164). -/
def execCountRecipients (addr : Byte) (s : State) : Out :=
  .next (s.answerCount (countResult (schedCount (hasRecipient addr) s.sched)))

/-- `CANCEL_ALL` (R166). -/
def execCancelAll (s : State) : Out := .next (schedCancel s fun _ => true)

/-- `NEXT_CADENCE` (R168). -/
def execNextCadence (now : Word64) (period : Nat) (offset : Word64) (s : State) : Out :=
  if period = 0 then violate .zeroPeriod
  else .next (s.answer (.nat (nextCadenceTime now.toNat period offset.toNat)))

end Sys2Proof.Machine
end

