-- ==== Sys2Proof/Machine/Transceiver.lean ====
section
/-! DEFINITION. Class `TR`: the transceiver commands (spec/44_transceiver_commands.md R200 to R238). -/

namespace Sys2Proof.Machine

/-- `WRITE` (R201, R202): the state check, the contract, the line check, then the effects of R208. -/
def execWrite (k : Nat) (p : Packet) (autostartRead : Bool) (readTimeoutUs : Word64) (ch : Option Chunking)
    (s : State) : Out :=
  onTrx s k fun t =>
    if t.state ≠ .idle then .next s.notAccept
    else if !packetValid p then violate .malformedPacket
    else if zeroChunk ch then violate .zeroChunk
    else if !s.linesClear then .next s.notAccept
    else .next (s.setTrx k (t.acceptWrite s.cfg s.now p autostartRead readTimeoutUs ch)).accept

/-- `START_READ` (R212). -/
def execStartRead (k : Nat) (readTimeoutUs : Word64) (s : State) : Out :=
  onTrx s k fun t =>
    if t.state ≠ .idle then .next s.notAccept
    else .next (s.setTrx k (t.acceptRead s.cfg s.now readTimeoutUs)).accept

/-- `PROCESS_EVENTS` (R214): two indivisible steps. With no call open on the instance, the snapshot step (R216); with a
call open, its act step (R218), which acts on the call's own `SNAP` and `now` and writes the result latches (R103). -/
def execProcessEvents (k : Nat) (now : Word64) (s : State) : Out :=
  onTrx s k fun t =>
    match t.poll with
    | none => .next (s.setTrx k (t.snapshot now))
    | some q =>
      match t.act s.cfg q with
      | .ok u => .next ((s.setTrx k u).report u.res.outcome u.res.latches)
      | .error e => .fault e

/-- `LINE_CHECK` (R206): 1 when the lines were high at every sample. -/
def execLineCheck (k : Nat) (s : State) : Out := onTrx s k fun _ => .next (s.answer (.u1 s.linesClear))

end Sys2Proof.Machine
end

