-- ==== Sys2Proof/Machine/Dispatch.lean ====
section
/-! DEFINITION. Each operation's meaning, one arm per constructor of `Instr`. -/

namespace Sys2Proof.Machine

def exec (i : Instr) (s : State) : Host.Outcome State Fault Refusal :=
  match i with
  | .pktGetCommand p => Sys2Proof.Machine.execPktGetCommand p s
  | .pktGetRecipient p => Sys2Proof.Machine.execPktGetRecipient p s
  | .pktGetSender p => Sys2Proof.Machine.execPktGetSender p s
  | .pktValid p => Sys2Proof.Machine.execPktValid p s
  | .pktGetLength p => Sys2Proof.Machine.execPktGetLength p s
  | .pktFrameword p => Sys2Proof.Machine.execPktFrameword p s
  | .pktTotalbits p => Sys2Proof.Machine.execPktTotalbits p s
  | .pktTxduration p => Sys2Proof.Machine.execPktTxduration p s
  | .pktChecksum p => Sys2Proof.Machine.execPktChecksum p s
  | .add priority req => Sys2Proof.Machine.execAdd priority req s
  | .popnext now => Sys2Proof.Machine.execPopnext now s
  | .cancelById id => Sys2Proof.Machine.execCancelById id s
  | .cancelByRecipient addr => Sys2Proof.Machine.execCancelByRecipient addr s
  | .countRecipients addr => Sys2Proof.Machine.execCountRecipients addr s
  | .cancelAll => Sys2Proof.Machine.execCancelAll s
  | .nextCadence now period offset => Sys2Proof.Machine.execNextCadence now period offset s
  | .epAdd e req => Sys2Proof.Machine.execEpAdd e req s
  | .epCancelById e id => Sys2Proof.Machine.execEpCancelById e id s
  | .epCancelByRecipient e addr => Sys2Proof.Machine.execEpCancelByRecipient e addr s
  | .epCountRecipients e addr => Sys2Proof.Machine.execEpCountRecipients e addr s
  | .epCancelAll e => Sys2Proof.Machine.execEpCancelAll e s
  | .write k p autostartRead readTimeoutUs chunking => Sys2Proof.Machine.execWrite k p autostartRead readTimeoutUs chunking s
  | .startRead k readTimeoutUs => Sys2Proof.Machine.execStartRead k readTimeoutUs s
  | .processEvents k now => Sys2Proof.Machine.execProcessEvents k now s
  | .lineCheck k => Sys2Proof.Machine.execLineCheck k s
  | .evTxdone k => Sys2Proof.Machine.execEvTxdone k s
  | .evRxsig k => Sys2Proof.Machine.execEvRxsig k s
  | .enTxShift k => Sys2Proof.Machine.execEnTxShift k s
  | .enRxCapture k w => Sys2Proof.Machine.execEnRxCapture k w s
  | .enRxTransfer k => Sys2Proof.Machine.execEnRxTransfer k s
  | .hwTxStart k => Sys2Proof.Machine.execHwTxStart k s
  | .hwTxStop k => Sys2Proof.Machine.execHwTxStop k s
  | .hwTxIsidle k => Sys2Proof.Machine.execHwTxIsidle k s
  | .hwRxPrepare k => Sys2Proof.Machine.execHwRxPrepare k s
  | .hwRxStart k => Sys2Proof.Machine.execHwRxStart k s
  | .hwRxStop k => Sys2Proof.Machine.execHwRxStop k s
  | .hwRxIsidle k => Sys2Proof.Machine.execHwRxIsidle k s
  | .hwRxProgress k => Sys2Proof.Machine.execHwRxProgress k s
  | .hwDirSet k d => Sys2Proof.Machine.execHwDirSet k d s
  | .notifyStarted target => Sys2Proof.Machine.execNotifyStarted target s
  | .notifyFailed target writeFailed readFailed => Sys2Proof.Machine.execNotifyFailed target writeFailed readFailed s
  | .notifyCompleted target response => Sys2Proof.Machine.execNotifyCompleted target response s
  | .frameWord k command recipientAddr senderAddr length => Sys2Proof.Machine.execFrameWord k command recipientAddr senderAddr length s
  | .checksumWord k tail => Sys2Proof.Machine.execChecksumWord k tail s

end Sys2Proof.Machine
end

