-- ==== Sys2Proof/Machine/Fetch.lean ====
section
/-! DEFINITION. What the next step runs (spec/20_memory.md R73): the turn taken from `State.turns`, the agent that may
issue what it presents (spec/30_encoding.md R94, spec/46_laws_and_system.md R243 (d)), and the order of the foreground's
own steps (spec/44_transceiver_commands.md R200). How a program comes to run is log entry 1; the interleaving as a list of
turns is log entry 7. -/

namespace Sys2Proof.Machine

/-- What a step does. -/
inductive Move where
  /-- Nothing runs: the state left is `s`. -/
  | settle (s : State)
  /-- The operation `i` runs in `s`. -/
  | run (i : Instr) (s : State)
  /-- What is presented has no meaning. -/
  | refuse (r : Refusal)
  deriving DecidableEq, Repr

/-- The format class of an opcode (R90, R91): its high nibble. -/
def opClass (op : Byte) : Nat := op.toNat / 16

/-- The agent that may issue an opcode (R91, R94, R243 (d); log entry 9 for the bench). -/
def opIssuer (op : Byte) : Agent :=
  if op = 0x33#8 then .bench
  else if opClass op = 4 then
    if op.toNat % 16 < 8 then .interrupt else if op = 0x48#8 then .shifter else .capture
  else if opClass op = 5 then .bench
  else if opClass op = 6 then .drivingLoop
  else .foreground

/-- The agent that may present this. -/
def portIssuer : Port → Agent
  | .command op _ _ => opIssuer op
  | .wireFrame _ _ => .capture
  | .wireTail _ _ => .capture

/-- The step's inputs are sampled, and the foreground's opcode, selector and operands stand in the port's latches (R27,
R28, R90, R93), where they stay until its next operation (log entry 27). The other agents do not use the port's latches
(R91, R318). -/
def loadPort (r : Request) (s : State) : State :=
  match r.agent, r.port with
  | .foreground, .command op sel x => { s with time := r.time, lines := r.lines, op := op, sel := sel, x := x }
  | _, _ => { s with time := r.time, lines := r.lines }

/-- What is presented is decoded and run; what no row assigns, or what this agent may not issue, is an illegal operation
(R94, R314; log entry 10); an operand latch of another type is refused (log entry 17). -/
def fetch (r : Request) (s : State) : Move :=
  if portIssuer r.port = r.agent then
    match decode r.port with
    | .ok i => .run i (loadPort r s)
    | .error .reservedOpcode => .settle (loadPort r s).illegal
    | .error .operandType => .refuse .operandType
  else .settle (loadPort r s).illegal

/-- The open `PROCESS_EVENTS` call of transceiver `k`, if there is one (R39). -/
def State.openCall (s : State) (k : Nat) : Option Poll :=
  match s.trx[k]? with
  | some t => t.poll
  | none => none

/-- The act step of the open call of transceiver `k` (log entry 11); nothing where no call is open. -/
def resumeCall (k : Nat) (s : State) : Move :=
  match s.openCall k with
  | some q => .run (.processEvents k q.now) s
  | none => .settle s

/-- The transceiver whose open call must end before the foreground can issue this command to it: the foreground issues
the steps of one instance one at a time (R200, R73; log entry 11). -/
def callInTheWay (r : Request) (s : State) : Option Nat :=
  match r.agent, r.port with
  | .foreground, .command op sel _ => if opClass op = 3 ∧ (s.openCall sel).isSome then some sel else none
  | _, _ => none

/-- The reset input (R350, R353): every element at its reset value at once, from any state. The configuration and the
instances stay (R350), the environment's inputs, its draws and what it does next are not the block's (log entry 20). -/
def applyReset (s : State) : State :=
  { State.resetWith s.cfg s.endpoints s.trx.length with
    time := s.time, lines := s.lines, draws := s.draws, turns := s.turns }

/-- The next move: with no turn left the block is at rest (R352); otherwise the first turn is taken, but for a command
that an open call stands in the way of, before which the act step of that call runs. -/
def nextMove (s : State) : Move :=
  match s.turns with
  | [] => .settle s
  | .reset :: rest => .settle (applyReset { s with turns := rest })
  | .resume k :: rest => resumeCall k { s with turns := rest }
  | .issue r :: rest =>
    match callInTheWay r s with
    | some k => resumeCall k s
    | none => fetch r { s with turns := rest }

/-- The state `s` with an opcode-table row's bits presented next, by the agent that may issue them, in front of the
other turns. A foreground command finds no call of instance 0 open, so that it is the very next step. -/
def presentTableWord (s : State) (nbits w : Nat) : State :=
  match portOfBits nbits w with
  | some p =>
    { s with
      turns := .issue ⟨portIssuer p, s.time, s.lines, p⟩ :: s.turns
      trx := s.trx.modify 0 fun t => if portIssuer p = .foreground then { t with poll := none } else t }
  | none => s

end Sys2Proof.Machine
end

