-- ==== Sys2Proof/Machine/Step.lean ====
section
/-! DEFINITION. One step of the machine: the next move of Machine/Fetch.lean, run by `exec`. -/

namespace Sys2Proof.Machine

/-- One indivisible step (spec/20_memory.md R73). -/
def step (s : State) : Host.Outcome State Fault Refusal :=
  match nextMove s with
  | .settle s' => .next s'
  | .run i s' => exec i s'
  | .refuse r => .refused r

/-- `s` with an opcode-table row's bits where `step` takes its next operation from. -/
def State.withFetchWord (s : State) (nbits w : Nat) : State := presentTableWord s nbits w

end Sys2Proof.Machine
end

