-- ==== Sys2Proof/Safety.lean ====
section
/-! DEFINITION. What the statements about the machine are said in: the invariant of spec/10_state.md R46, the
transitions of `STATE` (spec/44_transceiver_commands.md R238), which instance an operation acts on, what an act step
leaves, and a run of operations one after another. -/

namespace Sys2Proof.Machine

/-- The states a transceiver can be in at the act step of a call whose snapshot was the first one: only the two handlers
come in between (spec/70_reset_and_hazards.md R366). -/
def snapReaches : TState → TState → Bool
  | .idle, .idle => true
  | .writeInProgress, .writeInProgress => true
  | .writeInProgress, .writeComplete => true
  | .writeInProgress, .waitingForReadStart => true
  | .writeInProgress, .readInProgress => true
  | .writeInProgress, .readComplete => true
  | .writeComplete, .writeComplete => true
  | .waitingForReadStart, .waitingForReadStart => true
  | .waitingForReadStart, .readInProgress => true
  | .waitingForReadStart, .readComplete => true
  | .readInProgress, .readInProgress => true
  | .readInProgress, .readComplete => true
  | .readComplete, .readComplete => true
  | _, _ => false

/-- The invariant of one transceiver (R46 (a) to (f)), with the two facts it rests on: a prepared capture belongs to a
write that expects a response, and an open call's snapshot is one the handlers lead on from. -/
structure Trx.Inv (c : Cfg) (t : Trx) : Prop where
  /-- R46 (f), and the stores in their form. -/
  stores : t.storesWf c
  /-- R46 (a). -/
  idle : t.state = .idle → t.txArmed = false ∧ t.rxArmed = false
  /-- R46 (b). -/
  writing : t.state = .writeInProgress → t.txArmed = true ∧ t.rxArmed = false ∧ t.dir = .output
  /-- R46 (c). -/
  reading : t.state = .waitingForReadStart ∨ t.state = .readInProgress →
    t.rxArmed = true ∧ t.txArmed = false ∧ t.dir = .input
  /-- R46 (d). -/
  complete : t.state = .writeComplete ∨ t.state = .readComplete → t.txArmed = false ∧ t.rxArmed = false
  /-- R46 (e). -/
  neverFailed : t.state ≠ .writeFailed ∧ t.state ≠ .readFailed
  /-- What a pre-arm means (R37, 90 C5). -/
  prepared : t.rxPrepared = true → t.state = .writeInProgress ∧ t.respExpected = true
  /-- What an open call's snapshot means (R366). -/
  snapshot : ∀ q, t.poll = some q → snapReaches q.snap t.state = true

/-- No turn of this script is a test bench's (log entry 9): the primitives run only inside commands and handlers. -/
def turnsOfTheBlock (turns : List Turn) : Prop := ∀ r, Turn.issue r ∈ turns → r.agent ≠ .bench

/-- The invariant of the machine (R46), in an admissible configuration (R7, R360 (1)), for endpoints constructed within
the priorities there are (R26), while the block alone uses the primitives. -/
structure State.Inv (s : State) : Prop where
  cfg : s.cfg.wf
  endpoints : ∀ p ∈ s.endpoints, p ≤ s.cfg.maxPriority
  /-- R46 (g), and the schedule in its form. -/
  sched : schedWf s.cfg s.sched
  /-- R46 (a) to (f), of every instance. -/
  trx : ∀ t ∈ s.trx, t.Inv s.cfg
  turns : turnsOfTheBlock s.turns

/-- The transitions of `STATE` that an operation can make (R238). -/
def transitionOf : Instr → TState → TState → Bool
  | .write _ _ _ _ _, .idle, .writeInProgress => true
  | .startRead _ _, .idle, .waitingForReadStart => true
  | .evTxdone _, .writeInProgress, .waitingForReadStart => true
  | .evTxdone _, .writeInProgress, .writeComplete => true
  | .evRxsig _, .waitingForReadStart, .readInProgress => true
  | .evRxsig _, .readInProgress, .readComplete => true
  | .processEvents _ _, _, .idle => true
  | _, _, _ => false

/-- The transceiver an operation acts on, where it acts on one (R93). -/
def trxOf : Instr → Option Nat
  | .pktGetCommand _ => none
  | .pktGetRecipient _ => none
  | .pktGetSender _ => none
  | .pktValid _ => none
  | .pktGetLength _ => none
  | .pktFrameword _ => none
  | .pktTotalbits _ => none
  | .pktTxduration _ => none
  | .pktChecksum _ => none
  | .add _ _ => none
  | .popnext _ => none
  | .cancelById _ => none
  | .cancelByRecipient _ => none
  | .countRecipients _ => none
  | .cancelAll => none
  | .nextCadence _ _ _ => none
  | .epAdd _ _ => none
  | .epCancelById _ _ => none
  | .epCancelByRecipient _ _ => none
  | .epCountRecipients _ _ => none
  | .epCancelAll _ => none
  | .write k _ _ _ _ => some k
  | .startRead k _ => some k
  | .processEvents k _ => some k
  | .lineCheck k => some k
  | .evTxdone k => some k
  | .evRxsig k => some k
  | .enTxShift k => some k
  | .enRxCapture k _ => some k
  | .enRxTransfer k => some k
  | .hwTxStart k => some k
  | .hwTxStop k => some k
  | .hwTxIsidle k => some k
  | .hwRxPrepare k => some k
  | .hwRxStart k => some k
  | .hwRxStop k => some k
  | .hwRxIsidle k => some k
  | .hwRxProgress k => some k
  | .hwDirSet k _ => some k
  | .notifyStarted _ => none
  | .notifyFailed _ _ _ => none
  | .notifyCompleted _ _ => none
  | .frameWord k _ _ _ _ => some k
  | .checksumWord k _ => some k

/-- The machine after an act step that leaves transceiver `k` as `u`: the result latches hold `RES` in the order and the
codes of R103, R100 and R101, and nothing else changed. -/
def afterAct (s : State) (k : Nat) (u : Trx) : State :=
  { s with
    trx := s.trx.set k u
    y := { y0 := .u3 u.res.phase.code, y1 := .words u.res.readBuffer, y2 := .nat u.res.readBufferLen,
           y3 := .u3 u.res.failureReason.code }
    outcome := if u.res.failureReason = .none then .ok else .failureReport }

/-- The operations of a list, one after another, each in the state the one before it left. -/
def runOps : List Instr → State → Out
  | [], s => .next s
  | i :: is, s =>
    match exec i s with
    | .next t => runOps is t
    | .fault e => .fault e
    | .refused r => .refused r

/-- The operations of a list, one after another, each with the sample of `TIME` that stands beside it (R27). -/
def runOpsAt : List (Word64 × Instr) → State → Out
  | [], s => .next s
  | (time, i) :: is, s =>
    match exec i { s with time := time } with
    | .next t => runOpsAt is t
    | .fault e => .fault e
    | .refused r => .refused r

/-- A `PROCESS_EVENTS` call at `now` on transceiver `k` with these steps, each at its own time, between its snapshot step and
its act step (R216, R366). -/
def pollAcross (k : Nat) (now : Word64) (between : List (Word64 × Instr)) (s : State) : Out :=
  match runOpsAt ((now, .processEvents k now) :: between) s with
  | .next t => exec (.processEvents k now) t
  | .fault e => .fault e
  | .refused r => .refused r

end Sys2Proof.Machine
end

