-- ==== Sys2Proof/Certificates/Slice0/Obligations.lean ====
section
/-! DEFINITION. The statements about the machine, for the provers.

Each docstring names the rule of spec/ it formalises. A statement that an instruction takes its effect is an equation
`exec i s = .next …` whose right side names every field that changes, so it says the result, the completion and the
frame at once. `s` ranges over all states, whether or not a run reaches them; where a statement needs the form of the
stores or the invariant of R46 it says so in a premise, and `StepKeepsInvariant` states that invariant. -/

open Sys2Proof Sys2Proof.Machine

/-! ### Encodings -/

/-- Decoding what an operation is encoded as gives the operation back, with every operand at every value (R90, R92,
R93, R96, R109). -/
def Obligations.DecodeOfEncodeIsTheOperation : Prop := ∀ i : Instr, decode (encode i) = .ok i

/-- A few words written from the tables of R92, R96 and R109 are read as the operations they stand for. -/
def Obligations.WrittenWordsDecode : Prop :=
  decodeTableWord 8 0x11 = some (.popnext 0) ∧ decodeTableWord 8 0x33 = some (.lineCheck 0) ∧
  decodeTableWord 8 0x4A = some (.enRxTransfer 0) ∧ decodeTableWord 8 0x59 = some (.hwDirSet 0 .input) ∧
  decodeTableWord 8 0x21 = none ∧ decodeTableWord 8 0x53 = none ∧
  decodeTableWord 32 0x0C012003 = some (.frameWord 0 0x0C 0x01 0x20 0x03) ∧
  decodeTableWord 32 0x00000026 = some (.checksumWord 0 ⟨0x26, 0⟩) ∧
  decode (.command 0x13 0 { x0 := .u8 0x20 }) = .ok (.cancelByRecipient 0x20) ∧
  decode (.command 0x31 2 { x0 := .u64 300 }) = .ok (.startRead 2 300)

/-- R94: the opcodes outside the table of R92 are reserved, and the foreground caller is refused these and the opcodes
that are not its own, with no effect but the outcome `IllegalOperation` (what it presented stands in the port's latches,
and the turn is spent: the model's choice, log entry 10). -/
def Obligations.IllegalOperationHasNoEffect : Prop :=
  (∀ (op : Byte) (sel : Nat) (x : Operands), decode (.command op sel x) = .error .reservedOpcode ↔
    op.toNat ∉ [0x01, 0x02, 0x03, 0x04, 0x05, 0x06, 0x07, 0x08, 0x09, 0x10, 0x11, 0x12, 0x13, 0x14, 0x15, 0x16,
      0x20, 0x22, 0x23, 0x24, 0x25, 0x30, 0x31, 0x32, 0x33, 0x40, 0x41, 0x48, 0x49, 0x4A,
      0x50, 0x51, 0x52, 0x54, 0x55, 0x56, 0x57, 0x58, 0x59, 0x60, 0x61, 0x62]) ∧
  ∀ (s : State) (time : Word64) (lines : List LineSample) (op : Byte) (sel : Nat) (x : Operands)
    (rest : List Turn),
    s.turns = .issue ⟨.foreground, time, lines, .command op sel x⟩ :: rest → s.openCall sel = none →
    op.toNat ∉ [0x01, 0x02, 0x03, 0x04, 0x05, 0x06, 0x07, 0x08, 0x09, 0x10, 0x11, 0x12, 0x13, 0x14, 0x15, 0x16,
      0x20, 0x22, 0x23, 0x24, 0x25, 0x30, 0x31, 0x32] →
    step s = .next { s with turns := rest, time := time, lines := lines, op := op, sel := sel, x := x,
                            outcome := .illegalOperation }

/-- The codes of R100, R101 and R102 as the result latches and the direction operand carry them. -/
def Obligations.CodesOfPhasesAndReasons : Prop :=
  [TState.idle, .writeInProgress, .writeComplete, .writeFailed, .waitingForReadStart, .readInProgress, .readComplete,
    .readFailed].map TState.code = [0, 1, 2, 3, 4, 5, 6, 7] ∧
  [FailureReason.none, .crcInvalid, .missingData, .bufferOverflow, .timeout].map FailureReason.code = [0, 1, 2, 3, 4] ∧
  decode (.command 0x59 0 { x0 := .u1 false }) = .ok (.hwDirSet 0 .input) ∧
  decode (.command 0x59 0 { x0 := .u1 true }) = .ok (.hwDirSet 0 .output)

/-- R67: `msb_first` shifts bit 31 of a word (bit 7 of a checksum byte) first and `lsb_first` bit 0, every bit exactly once;
and whichever order it is, the capture unit reassembles a word as it was, and a checksum byte zero-extended (R68). -/
def Obligations.ReassembleIsTheInverseOfSerialize : Prop :=
  (∀ w : Word32, (serialize .msbFirst w).length = 32 ∧ (serialize .lsbFirst w).length = 32 ∧
    ∀ i, i < 32 → (serialize .msbFirst w)[i]? = some (w.getLsbD (31 - i)) ∧
      (serialize .lsbFirst w)[i]? = some (w.getLsbD i)) ∧
  (∀ c : Byte, (serialize .msbFirst c).length = 8 ∧ (serialize .lsbFirst c).length = 8 ∧
    ∀ i, i < 8 → (serialize .msbFirst c)[i]? = some (c.getLsbD (7 - i)) ∧
      (serialize .lsbFirst c)[i]? = some (c.getLsbD i)) ∧
  ∀ o, (∀ w : Word32, reassemble o (serialize o w) = w) ∧
    ∀ c : Byte, (reassemble o (serialize o c)).toNat = c.toNat

/-! ### The packet functions -/

/-- R121, R122, R123, R125: each accessor answers its field as stored, and changes nothing else. -/
def Obligations.PacketAccessorsAnswerTheirField : Prop :=
  ∀ (p : Packet) (s : State),
    exec (.pktGetCommand p) s = .next { s with y := { y0 := .u8 p.frame.command }, outcome := .ok } ∧
    exec (.pktGetRecipient p) s = .next { s with y := { y0 := .u8 p.frame.recipientAddr }, outcome := .ok } ∧
    exec (.pktGetSender p) s = .next { s with y := { y0 := .u8 p.frame.senderAddr }, outcome := .ok } ∧
    exec (.pktGetLength p) s = .next { s with y := { y0 := .u8 p.frame.length }, outcome := .ok }

/-- R124: `PKT_VALID` answers 1 exactly for at most 255 payload words whose number is the `length` field. -/
def Obligations.PacketValidityRejectsMismatch : Prop :=
  ∀ (p : Packet) (s : State), ∃ v,
    exec (.pktValid p) s = .next { s with y := { y0 := .u1 v }, outcome := .ok } ∧
    (v = true ↔ p.payload.length ≤ 255 ∧ p.frame.length.toNat = p.payload.length)

/-- R126: the frame word has `command` in bits 31:24, `recipientAddr` in 23:16, `senderAddr` in 15:8, `length` in 7:0. -/
def Obligations.FrameWordPlacesTheFields : Prop :=
  ∀ (p : Packet) (s : State), ∃ w : Word32,
    exec (.pktFrameword p) s = .next { s with y := { y0 := .u32 w }, outcome := .ok } ∧
    w.toNat = p.frame.command.toNat * 2 ^ 24 + p.frame.recipientAddr.toNat * 2 ^ 16 + p.frame.senderAddr.toNat * 2 ^ 8 +
      p.frame.length.toNat

/-- R127 and R128: the bit count follows the payload's real size, the duration follows the `length` field. -/
def Obligations.BitCountAndDurationOfPacket : Prop :=
  ∀ (p : Packet) (s : State),
    exec (.pktTotalbits p) s =
      .next { s with y := { y0 := .nat (32 * (1 + p.payload.length) + s.cfg.trailerBits) }, outcome := .ok } ∧
    exec (.pktTxduration p) s =
      .next { s with y := { y0 := .nat (32 * (1 + p.frame.length.toNat) * s.cfg.bitPeriodNs) }, outcome := .ok }

/-- R130: bit `j` of the checksum is 1 exactly when bit `j` is set in an odd number of the bytes of the frame word and of
the payload words. -/
def Obligations.ChecksumIsParityOfEachBitColumn : Prop :=
  ∀ (p : Packet) (s : State), ∃ c : Byte,
    exec (.pktChecksum p) s = .next { s with y := { y0 := .u8 c }, outcome := .ok } ∧
    ∀ j, j < 8 → (c.getLsbD j = true ↔
      (([p.frame.command, p.frame.recipientAddr, p.frame.senderAddr, p.frame.length].countP (·.getLsbD j)) +
        ((p.payload.map fun w => [0, 1, 2, 3].countP fun b => w.getLsbD (8 * b + j)).sum)) % 2 = 1)

/-- R66: the checksum does not depend on the order of the words, nor on the order of the bytes inside one. -/
def Obligations.ChecksumIgnoresOrder : Prop :=
  (∀ ws vs : List Word32, ws.Perm vs → checksumWords ws = checksumWords vs) ∧
  ∀ (a b c d : Byte) (e f g h : Byte), [a, b, c, d].Perm [e, f, g, h] →
    xor8 (a ++ b ++ c ++ d) = xor8 (e ++ f ++ g ++ h)

/-! ### The notification capability -/

/-- R140 to R143: the callbacks leave the whole machine as it was. -/
def Obligations.CallbacksHaveNoEffect : Prop :=
  ∀ (s : State) (target : Handle) (wf rf : Bool) (p : Packet),
    exec (.notifyStarted target) s = .next s ∧ exec (.notifyFailed target wf rf) s = .next s ∧
    exec (.notifyCompleted target p) s = .next s

/-! ### The scheduler -/

/-- R152: `ADD` refuses a priority out of range, then a full schedule, as contract violations; otherwise it answers
`NEXT_ID`, advances it modulo 2^32 and puts the entry after every entry of its bucket that is not later. -/
def Obligations.AddInsertsInTimeOrder : Prop :=
  ∀ (s : State) (pr : Byte) (r : SendRequest),
    (s.cfg.maxPriority.toNat < pr.toNat → exec (.add pr r) s = .fault (.contractViolation .priorityOutOfRange)) ∧
    (pr.toNat ≤ s.cfg.maxPriority.toNat → (∃ cap, s.cfg.schedCapacity = some cap ∧ cap ≤ (s.sched.map List.length).sum) →
      exec (.add pr r) s = .fault (.contractViolation .scheduleFull)) ∧
    (pr.toNat ≤ s.cfg.maxPriority.toNat →
      (∀ cap, s.cfg.schedCapacity = some cap → (s.sched.map List.length).sum < cap) →
      ∀ b, s.sched[pr.toNat]? = some b → b.Pairwise (fun a e => a.txTime ≤ e.txTime) →
      ∃ before after, b = before ++ after ∧ (∀ e ∈ before, e.txTime ≤ r.txTime.toNat) ∧
        (∀ e ∈ after, r.txTime.toNat < e.txTime) ∧
        exec (.add pr r) s = .next { s with
          nextId := s.nextId + 1
          sched := s.sched.set pr.toNat (before ++
            ⟨s.nextId, pr, r.txTime.toNat, r.notifyTarget, r.packet, r.expectResponse, r.expectedResponsePayloadWords,
              r.autoRepeatUs, r.autoRepeatEndTimeUs⟩ :: after)
          y := { y0 := .u32 s.nextId }
          outcome := .ok })

/-- R156, nothing due: no bucket's head has `txTime <= now`, the answer is `none` and the schedule stays. -/
def Obligations.PopNextAnswersNoneWhenNothingIsDue : Prop :=
  ∀ (s : State) (now : Word64), (∀ (p : Nat) h tl, s.sched[p]? = some (h :: tl) → now.toNat < h.txTime) →
    exec (.popnext now) s = .next { s with y := { y0 := .transmission none }, outcome := .ok }

/-- R156 and R157: the head of the first bucket whose head is due is removed and returned; an auto-repeat leaves a copy at
the first time on its cadence that is later than the popped time and not before `now`, unless its end time is reached;
`NEXT_ID`, the other buckets and the transceivers stay. -/
def Obligations.PopNextTakesFirstDueHeadAndReschedules : Prop :=
  ∀ (s : State) (now : Word64) (p : Nat) (h : Transmission) (tl : List Transmission),
    s.sched[p]? = some (h :: tl) → h.txTime ≤ now.toNat →
    (∀ (q : Nat) h' tl', q < p → s.sched[q]? = some (h' :: tl') → now.toNat < h'.txTime) →
    tl.Pairwise (fun a e => a.txTime ≤ e.txTime) →
    ∃ b, exec (.popnext now) s = .next { s with
        sched := s.sched.set p b, y := { y0 := .transmission (some h) }, outcome := .ok } ∧
      (h.autoRepeatPeriodUs.toNat = 0 → b = tl) ∧
      (0 < h.autoRepeatPeriodUs.toNat → ∃ next,
        next % h.autoRepeatPeriodUs.toNat = h.txTime % h.autoRepeatPeriodUs.toNat ∧
        h.txTime < next ∧ now.toNat ≤ next ∧ next < max now.toNat (h.txTime + 1) + h.autoRepeatPeriodUs.toNat ∧
        (h.autoRepeatEndTimeUs.toNat = 0 ∨ next < h.autoRepeatEndTimeUs.toNat →
          ∃ before after, tl = before ++ after ∧ (∀ e ∈ before, e.txTime ≤ next) ∧ (∀ e ∈ after, next < e.txTime) ∧
            b = before ++ { h with txTime := next } :: after) ∧
        (¬(h.autoRepeatEndTimeUs.toNat = 0 ∨ next < h.autoRepeatEndTimeUs.toNat) → b = tl))

/-- R170 (a) and (b): `popNext(t)` always answers and never with a Transmission whose `txTime > t`; while any entry of
a bucket is due, it returns an entry of no greater priority number. -/
def Obligations.PopNextReturnsADueEntryOfLeastNumber : Prop :=
  ∀ (s : State) (now : Word64),
    (∃ t o, exec (.popnext now) s = .next t ∧ t.y.y0 = .transmission o ∧ ∀ h, o = some h → h.txTime ≤ now.toNat) ∧
    (schedWf s.cfg s.sched → ∀ (p : Nat) b e, s.sched[p]? = some b → e ∈ b → e.txTime ≤ now.toNat →
      ∃ t h, exec (.popnext now) s = .next t ∧ t.y.y0 = .transmission (some h) ∧ h.txTime ≤ now.toNat ∧
        h.priority.toNat ≤ p)

/-- R160 and R162: exactly the matching entries are removed, the others stay in their order, and the result is their
number (exact below 2^32 entries, R240). -/
def Obligations.CancelRemovesExactlyTheMatches : Prop :=
  ∀ (s : State) (id : Word32) (addr : Byte),
    (∃ n : Word32, exec (.cancelById id) s = .next { s with
        sched := s.sched.map fun b => b.filter fun e => decide (e.id ≠ id), y := { y0 := .u32 n, flag := .count }, outcome := .ok } ∧
      ((s.sched.map fun b => b.countP fun e => decide (e.id = id)).sum < 2 ^ 32 →
        n.toNat = (s.sched.map fun b => b.countP fun e => decide (e.id = id)).sum)) ∧
    (∃ n : Word32, exec (.cancelByRecipient addr) s = .next { s with
        sched := s.sched.map fun b => b.filter fun e => decide (e.packet.frame.recipientAddr ≠ addr)
        y := { y0 := .u32 n, flag := .count }, outcome := .ok } ∧
      ((s.sched.map fun b => b.countP fun e => decide (e.packet.frame.recipientAddr = addr)).sum < 2 ^ 32 →
        n.toNat = (s.sched.map fun b => b.countP fun e => decide (e.packet.frame.recipientAddr = addr)).sum))

/-- R164: `countRecipients` writes nothing but its result, which is what `cancelByRecipient` would return, and is the
number of matching entries (exact below 2^32 entries, R240). -/
def Obligations.CountAgreesWithCancelByRecipient : Prop :=
  ∀ (s : State) (addr : Byte), ∃ (n : Word32) (t : State),
    exec (.countRecipients addr) s = .next { s with y := { y0 := .u32 n, flag := .count }, outcome := .ok } ∧
    exec (.cancelByRecipient addr) s = .next t ∧ t.y.y0 = .u32 n ∧
    (s.sched.flatten.countP (fun e => decide (e.packet.frame.recipientAddr = addr)) < 2 ^ 32 →
      n.toNat = s.sched.flatten.countP (fun e => decide (e.packet.frame.recipientAddr = addr)))

/-- R166: every bucket is emptied, the result is the number of entries there were (exact below 2^32, R240), and
`NEXT_ID` is not reset. -/
def Obligations.CancelAllEmptiesEveryBucket : Prop :=
  ∀ s : State, ∃ n : Word32,
    exec .cancelAll s = .next { s with
      sched := s.sched.map fun _ => [], y := { y0 := .u32 n, flag := .count }, outcome := .ok } ∧
    (s.sched.flatten.length < 2 ^ 32 → n.toNat = s.sched.flatten.length)

/-- R168: a zero period is a contract violation; otherwise the answer is the one time in `[now, now + period)` that is
congruent to `offset` modulo the period, and nothing else changes. -/
def Obligations.NextCadenceIsTheFirstCongruentTime : Prop :=
  ∀ (s : State) (now offset : Word64) (period : Nat),
    exec (.nextCadence now 0 offset) s = .fault (.contractViolation .zeroPeriod) ∧
    (0 < period → ∃ next, exec (.nextCadence now period offset) s =
        .next { s with y := { y0 := .nat next }, outcome := .ok } ∧
      now.toNat ≤ next ∧ next < now.toNat + period ∧ next % period = offset.toNat % period)

/-! ### The endpoint scheduler -/

/-- R191: an endpoint's `add` is `ADD` at the endpoint's priority, whatever that answers, and it completes where the
schedule has room. -/
def Obligations.EndpointAddIsAddAtItsPriority : Prop :=
  ∀ (s : State) (e : Nat) (p : Byte) (r : SendRequest), s.endpoints[e]? = some p →
    exec (.epAdd e r) s = exec (.add p r) s ∧
    (p.toNat ≤ s.cfg.maxPriority.toNat →
      (∀ cap, s.cfg.schedCapacity = some cap → (s.sched.map List.length).sum < cap) →
      ∃ t, exec (.epAdd e r) s = .next t ∧ t.y.y0 = .u32 s.nextId ∧ t.nextId = s.nextId + 1 ∧
        t = { s with nextId := t.nextId, sched := t.sched, y := t.y, outcome := t.outcome })

/-- R192 to R195: the other endpoint commands are the scheduler's, on every bucket, whatever the endpoint's priority. -/
def Obligations.EndpointCommandsReachTheWholeSchedule : Prop :=
  ∀ (s : State) (e : Nat) (p : Byte) (id : Word32) (addr : Byte), s.endpoints[e]? = some p →
    (∃ t, exec (.epCancelById e id) s = .next t ∧ exec (.cancelById id) s = .next t) ∧
    (∃ t, exec (.epCancelByRecipient e addr) s = .next t ∧ exec (.cancelByRecipient addr) s = .next t) ∧
    (∃ t, exec (.epCountRecipients e addr) s = .next t ∧ exec (.countRecipients addr) s = .next t) ∧
    (∃ t, exec (.epCancelAll e) s = .next t ∧ exec .cancelAll s = .next t ∧ ∀ b ∈ t.sched, b = [])

/-! ### `WRITE`, `LINE_CHECK`, `START_READ` -/

/-- R202: the checks of `WRITE` in their order: busy, malformed packet, chunk size 0, a line low. -/
def Obligations.WriteChecksInOrder : Prop :=
  ∀ (s : State) (k : Nat) (t : Trx) (p : Packet) (a : Bool) (tm : Word64) (ch : Option Chunking),
    s.trx[k]? = some t →
    (t.state ≠ .idle →
      exec (.write k p a tm ch) s = .next { s with y := { y0 := .u1 false, flag := .accepted }, outcome := .notAccepted }) ∧
    (t.state = .idle → ¬(p.payload.length ≤ 255 ∧ p.frame.length.toNat = p.payload.length) →
      exec (.write k p a tm ch) s = .fault (.contractViolation .malformedPacket)) ∧
    (t.state = .idle → p.payload.length ≤ 255 → p.frame.length.toNat = p.payload.length →
      (∃ c, ch = some c ∧ c.chunkWords = 0) →
      exec (.write k p a tm ch) s = .fault (.contractViolation .zeroChunk)) ∧
    (t.state = .idle → p.payload.length ≤ 255 → p.frame.length.toNat = p.payload.length →
      (∀ c, ch = some c → 1 ≤ c.chunkWords) → (∃ l ∈ s.lines, l.lineA = false ∨ l.lineB = false) →
      exec (.write k p a tm ch) s = .next { s with y := { y0 := .u1 false, flag := .accepted }, outcome := .notAccepted })

/-- R208 and R207: an accepted `WRITE`, on an instance that satisfies R46: the sequence stands in `TXSEQ`, the shifter is
armed, `SOF` is on the wire, capture is prepared exactly when a response is expected, and the deadline is `now` plus
the least number of microseconds not below the enlarged duration and the chunk gaps. -/
def Obligations.WriteAcceptedArmsTheTransmitter : Prop :=
  ∀ (s : State) (k : Nat) (t : Trx) (p : Packet) (a : Bool) (tm : Word64) (ch : Option Chunking),
    s.trx[k]? = some t → t.Inv s.cfg → t.state = .idle →
    p.payload.length ≤ 255 → p.frame.length.toNat = p.payload.length → (∀ c, ch = some c → 1 ≤ c.chunkWords) →
    (∀ l ∈ s.lines, l.lineA = true ∧ l.lineB = true) →
    ∃ (gap ns budget : Nat),
      (ch = none → gap = 0) ∧
      (∀ c, ch = some c → gap = (max 1 ((p.payload.length + c.chunkWords - 1) / c.chunkWords) - 1) * c.delayCount.toNat *
        s.cfg.chunkDelayNsPerCount) ∧
      ns = 32 * (1 + p.payload.length) * s.cfg.bitPeriodNs * (100 + s.cfg.timeoutMarginPercent) + 100 * gap ∧
      ns ≤ 100000 * budget ∧ 100000 * budget < ns + 100000 ∧
      exec (.write k p a tm ch) s = .next { s with
        trx := s.trx.set k { t with
          txseq := buildSequence p (packetChecksum p) ch
          txPos := 0
          txArmed := true
          wireOut := t.wireOut ++ [.sof]
          rxCount := if a then 0 else t.rxCount
          rxFifo := if a then [] else t.rxFifo
          rxbuf := if a then [] else t.rxbuf
          rxPrepared := a
          rxArmed := false
          respExpected := a
          readTimeout := tm
          dir := .output
          deadline := some (s.time.toNat + budget)
          state := .writeInProgress }
        y := { y0 := .u1 true, flag := .accepted }
        outcome := .ok }

/-- R105: the unchunked sequence, and the same for a chunking that makes one chunk (R106). -/
def Obligations.UnchunkedSequenceLayout : Prop :=
  ∀ (p : Packet) (c : Byte) (ch : Option Chunking), p.frame.length.toNat = p.payload.length →
    (∀ d, ch = some d → 1 ≤ d.chunkWords ∧ p.payload.length ≤ d.chunkWords) →
    buildSequence p c ch =
      .bitcount (32 * (1 + p.payload.length) + 8) :: .word p.frame.toWord :: p.payload.map .word ++ [.crc c, .trailer]

/-- R106: a payload that fits one chunk is sent as without chunking. In a longer one the first chunk carries the frame
word and `chunkWords` words; what follows it is the rest of the payload sent the same way, with a re-entry marker, a bit
count and the delay count before each further group, and the checksum and the trailer after the last group only. -/
def Obligations.ChunkedSequenceLayout : Prop :=
  ∀ (p : Packet) (c : Byte) (d : Chunking), p.frame.length.toNat = p.payload.length → 1 ≤ d.chunkWords →
    (p.payload.length ≤ d.chunkWords → buildSequence p c (some d) =
      .bitcount (32 * (1 + p.payload.length) + 8) :: .word p.frame.toWord :: p.payload.map .word ++ [.crc c, .trailer]) ∧
    (d.chunkWords < p.payload.length → ∃ groups last,
      p.payload = groups.flatten ++ last ∧ groups ≠ [] ∧ (∀ g ∈ groups, g.length = d.chunkWords) ∧
      1 ≤ last.length ∧ last.length ≤ d.chunkWords ∧
      buildSequence p c (some d) =
        (.bitcount (32 * (1 + d.chunkWords)) :: .word p.frame.toWord :: (p.payload.take d.chunkWords).map .word) ++
        (groups.tail.flatMap fun g => .reentry :: .bitcount (32 * d.chunkWords) :: .delaycount d.delayCount :: g.map .word) ++
        (.reentry :: .bitcount (32 * last.length + 8) :: .delaycount d.delayCount :: last.map .word) ++ [.crc c, .trailer])

/-- R206: `LINE_CHECK` answers 1 exactly when both lines were high at every sample of the window, and writes nothing
else. -/
def Obligations.LineCheckSeesALowLine : Prop :=
  ∀ (s : State) (k : Nat) (t : Trx), s.trx[k]? = some t → ∃ clear,
    exec (.lineCheck k) s = .next { s with y := { y0 := .u1 clear }, outcome := .ok } ∧
    (clear = true ↔ ∀ l ∈ s.lines, l.lineA = true ∧ l.lineB = true)

/-- R212: `START_READ` is refused unless `IDLE`, with nothing changed; accepted, it arms capture, sets the deadline from
`TIME` (none for `NO_TIMEOUT`), drives the line to input and waits for a start of frame. -/
def Obligations.StartReadArmsCapture : Prop :=
  ∀ (s : State) (k : Nat) (t : Trx) (tm : Word64), s.trx[k]? = some t →
    (t.state ≠ .idle →
      exec (.startRead k tm) s = .next { s with y := { y0 := .u1 false, flag := .accepted }, outcome := .notAccepted }) ∧
    (t.state = .idle → exec (.startRead k tm) s = .next { s with
      trx := s.trx.set k { t with
        rxCount := 0
        rxFifo := []
        rxbuf := []
        rxPrepared := false
        rxArmed := true
        dir := .input
        deadline := if tm = s.cfg.noTimeout then none else some (s.time.toNat + tm.toNat)
        state := .waitingForReadStart }
      y := { y0 := .u1 true, flag := .accepted }
      outcome := .ok })

/-! ### `PROCESS_EVENTS` -/

/-- R216, the snapshot step: with no call open, `SNAP` takes `STATE` and nothing else changes. That the call's `now` is
kept with it for the act step is the model's choice (log entry 11). -/
def Obligations.SnapshotReadsStateOnce : Prop :=
  ∀ (s : State) (k : Nat) (t : Trx) (now : Word64), s.trx[k]? = some t → t.poll = none →
    exec (.processEvents k now) s = .next { s with trx := s.trx.set k { t with poll := some ⟨t.state, now⟩ } }

/-- R220 and R222, the act step on the snapshots `IDLE` and `WRITE_COMPLETE`. -/
def Obligations.ActOnIdleAndWriteComplete : Prop :=
  ∀ (s : State) (k : Nat) (t : Trx) (q : Poll) (now : Word64), s.trx[k]? = some t → t.poll = some q →
    (q.snap = .idle → exec (.processEvents k now) s =
      .next (afterAct s k { t with poll := none, res := ⟨.idle, [], 0, .none⟩ })) ∧
    (q.snap = .writeComplete → exec (.processEvents k now) s =
      .next (afterAct s k { t with state := .idle, poll := none, res := ⟨.writeComplete, [], 0, .none⟩ }))

/-- R229 to R231, the act step on the snapshot `READ_IN_PROGRESS`: overflow first, then the inter-word timeout, else the
marker moves with the counter and `STATE` is not written. -/
def Obligations.ActOnReadInProgress : Prop :=
  ∀ (s : State) (k : Nat) (t : Trx) (q : Poll) (now : Word64), s.trx[k]? = some t → t.poll = some q →
    q.snap = .readInProgress →
    (s.cfg.rxBufferWords ≤ t.rxCount → exec (.processEvents k now) s =
      .next (afterAct s k { t with
        rxArmed := false, rxPrepared := false, state := .idle, poll := none, res := ⟨.readFailed, [], 0, .bufferOverflow⟩ })) ∧
    (t.rxCount < s.cfg.rxBufferWords → t.rxCount = t.lastProgress →
      t.lastProgressTime.toNat + s.cfg.interWordTimeoutUs < q.now.toNat → exec (.processEvents k now) s =
      .next (afterAct s k { t with
        rxArmed := false, rxPrepared := false, state := .idle, poll := none, res := ⟨.readFailed, [], 0, .timeout⟩ })) ∧
    (t.rxCount < s.cfg.rxBufferWords → t.rxCount = t.lastProgress →
      q.now.toNat ≤ t.lastProgressTime.toNat + s.cfg.interWordTimeoutUs → exec (.processEvents k now) s =
      .next (afterAct s k { t with poll := none, res := ⟨.readInProgress, [], 0, .none⟩ })) ∧
    (t.rxCount < s.cfg.rxBufferWords → t.rxCount ≠ t.lastProgress → exec (.processEvents k now) s =
      .next (afterAct s k { t with
        lastProgress := t.rxCount, lastProgressTime := q.now, poll := none, res := ⟨.readInProgress, [], 0, .none⟩ }))

/-- R232 to R235, the act step on the other non-idle snapshots: strictly past the deadline, the wait for a response ends
in `READ_FAILED/TIMEOUT` with capture stopped, any other in `WRITE_FAILED/TIMEOUT` with both units stopped and the line
turned to input; otherwise, or with no deadline, nothing but `RES` is written. -/
def Obligations.ActOnDeadline : Prop :=
  ∀ (s : State) (k : Nat) (t : Trx) (q : Poll) (now : Word64), s.trx[k]? = some t → t.poll = some q →
    q.snap ∈ [TState.writeInProgress, .waitingForReadStart, .writeFailed, .readFailed] →
    ((∀ d, t.deadline = some d → q.now.toNat ≤ d) → exec (.processEvents k now) s =
      .next (afterAct s k { t with poll := none, res := ⟨q.snap, [], 0, .none⟩ })) ∧
    (∀ d, t.deadline = some d → d < q.now.toNat →
      (q.snap = .waitingForReadStart → exec (.processEvents k now) s =
        .next (afterAct s k { t with
          rxArmed := false, rxPrepared := false, state := .idle, poll := none, res := ⟨.readFailed, [], 0, .timeout⟩ })) ∧
      (q.snap ≠ .waitingForReadStart → exec (.processEvents k now) s =
        .next (afterAct s k { t with
          txArmed := false, rxArmed := false, rxPrepared := false, dir := .input, state := .idle, poll := none
          res := ⟨.writeFailed, [], 0, .timeout⟩ })))

/-- R224 to R228, the act step on the snapshot `READ_COMPLETE`, with the stores in their form: the residual words that
fit are moved into the buffer, and then, in this order, no word at all, fewer words than the declared length and two
more, a checksum that differs, or the frame word and the declared payload as the result. `STATE` is `IDLE` after each. -/
def Obligations.ActOnReadComplete : Prop :=
  ∀ (s : State) (k : Nat) (t : Trx) (q : Poll) (now : Word64), s.trx[k]? = some t → t.poll = some q →
    q.snap = .readComplete → t.storesWf s.cfg →
    ∀ words, words = t.rxbuf ++ t.rxFifo.take (s.cfg.rxBufferWords - t.rxCount) →
    ∀ after : Res → Trx, (after = fun r => { t with
        rxbuf := words, rxCount := words.length, rxFifo := t.rxFifo.drop (s.cfg.rxBufferWords - t.rxCount)
        state := .idle, poll := none, res := r }) →
    (words = [] → exec (.processEvents k now) s = .next (afterAct s k (after ⟨.readFailed, [], 0, .missingData⟩))) ∧
    ∀ f rest, words = f :: rest → ∀ len, len = f.toNat % 256 →
      (words.length < len + 2 →
        exec (.processEvents k now) s = .next (afterAct s k (after ⟨.readFailed, [], 0, .missingData⟩))) ∧
      ∀ c, words[len + 1]? = some c →
        (checksumWords (words.take (len + 1)) ≠ c.setWidth 8 →
          exec (.processEvents k now) s = .next (afterAct s k (after ⟨.readFailed, [], 0, .crcInvalid⟩))) ∧
        (checksumWords (words.take (len + 1)) = c.setWidth 8 →
          exec (.processEvents k now) s =
            .next (afterAct s k (after ⟨.readComplete, words.take (len + 1), len + 1, .none⟩)))

/-- R74 and R216: the act step never reads `STATE`. Two machines that differ only in the `STATE` of the instance polled
report the same, and are left differing at most in that `STATE`, which both have as `IDLE` or neither wrote. -/
def Obligations.ActNeverReadsState : Prop :=
  ∀ (s : State) (k : Nat) (t : Trx) (q : Poll) (now : Word64) (other : TState), s.trx[k]? = some t → t.poll = some q →
    t.storesWf s.cfg → ∃ u v,
      exec (.processEvents k now) s = .next (afterAct s k u) ∧
      exec (.processEvents k now) { s with trx := s.trx.set k { t with state := other } } =
        .next (afterAct { s with trx := s.trx.set k { t with state := other } } k v) ∧
      u.res = v.res ∧ v = { u with state := v.state } ∧
      (u.state = .idle ∧ v.state = .idle ∨ u.state = t.state ∧ v.state = other)

/-- R236: the results `PROCESS_EVENTS` can return, by the snapshot: the phase, the reason and whether a buffer is
exposed. -/
def Obligations.ResultsOfProcessEventsAreTheTable : Prop :=
  ∀ (s : State) (k : Nat) (t : Trx) (q : Poll) (now : Word64), s.trx[k]? = some t → t.poll = some q → t.storesWf s.cfg →
    ∃ u, exec (.processEvents k now) s = .next (afterAct s k u) ∧
      (q.snap, u.res.phase, u.res.failureReason) ∈ [
        (TState.idle, TState.idle, FailureReason.none),
        (.writeInProgress, .writeInProgress, .none), (.writeInProgress, .writeFailed, .timeout),
        (.writeComplete, .writeComplete, .none),
        (.waitingForReadStart, .waitingForReadStart, .none), (.waitingForReadStart, .readFailed, .timeout),
        (.readInProgress, .readFailed, .bufferOverflow), (.readInProgress, .readFailed, .timeout),
        (.readInProgress, .readInProgress, .none),
        (.readComplete, .readFailed, .missingData), (.readComplete, .readFailed, .crcInvalid),
        (.readComplete, .readComplete, .none),
        (.writeFailed, .writeFailed, .timeout), (.readFailed, .writeFailed, .timeout),
        (.writeFailed, .writeFailed, .none), (.readFailed, .readFailed, .none)] ∧
      u.res.readBufferLen = u.res.readBuffer.length ∧
      (u.res.readBuffer ≠ [] ↔ q.snap = .readComplete ∧ u.res.failureReason = .none)

/-- R302 and R46: when a call reports a failure, the instance is left in `IDLE` with both units stopped and the result
holds no words, on an instance that satisfies R46. -/
def Obligations.FailureLeavesTheTransceiverIdleAndStopped : Prop :=
  ∀ (s : State) (k : Nat) (t : Trx) (q : Poll) (now : Word64), s.trx[k]? = some t → t.poll = some q → t.Inv s.cfg →
    ∃ u, exec (.processEvents k now) s = .next (afterAct s k u) ∧
      (u.res.failureReason ≠ .none → u.state = .idle ∧ u.txArmed = false ∧ u.rxArmed = false ∧ u.rxPrepared = false ∧
        u.poll = none ∧ u.res.readBuffer = [] ∧ u.res.readBufferLen = 0 ∧
        (u.res.phase = .writeFailed ∨ u.res.phase = .readFailed))

/-! ### Hardware events, environment steps, primitives -/

/-- R262 and R264: the transmit-complete handler, enabled once the armed shifter has consumed the whole sequence. That the
event changes nothing when it is not enabled is the model's choice (log entry 19). -/
def Obligations.TxDoneHandlerEffect : Prop :=
  ∀ (s : State) (k : Nat) (t : Trx), s.trx[k]? = some t →
    (t.txArmed = true → t.txPos = t.txseq.length → t.respExpected = true → exec (.evTxdone k) s = .next { s with
      trx := s.trx.set k { t with
        txArmed := false, rxCount := 0, rxFifo := [], rxbuf := [], rxPrepared := false, rxArmed := true, dir := .input
        deadline := if t.readTimeout = s.cfg.noTimeout then none else some (s.time.toNat + t.readTimeout.toNat)
        state := .waitingForReadStart } }) ∧
    (t.txArmed = true → t.txPos = t.txseq.length → t.respExpected = false → exec (.evTxdone k) s = .next { s with
      trx := s.trx.set k { t with txArmed := false, state := .writeComplete } }) ∧
    (t.txArmed = false ∨ t.txPos ≠ t.txseq.length → exec (.evTxdone k) s = .next s)

/-- R266 and R267: the receive handler: the first signal starts the frame and records the marker and the time, the second
ends it and stops capture, and in any other state there is no effect. That a signal with capture not armed, which R267
rules out, has no effect either is the model's choice (log entry 19). -/
def Obligations.RxSigHandlerEffect : Prop :=
  ∀ (s : State) (k : Nat) (t : Trx), s.trx[k]? = some t →
    (t.rxArmed = true → t.state = .waitingForReadStart → exec (.evRxsig k) s = .next { s with
      trx := s.trx.set k { t with lastProgress := t.rxCount, lastProgressTime := s.time, state := .readInProgress } }) ∧
    (t.rxArmed = true → t.state = .readInProgress → exec (.evRxsig k) s = .next { s with
      trx := s.trx.set k { t with rxArmed := false, rxPrepared := false, state := .readComplete } }) ∧
    (t.rxArmed = false ∨ t.state ≠ .waitingForReadStart ∧ t.state ≠ .readInProgress → exec (.evRxsig k) s = .next s)

/-- R268: the shifter puts the symbols of the next item on the wire and moves on. That the step changes nothing when it is
not enabled is the model's choice (log entry 19). -/
def Obligations.ShifterSendsTheNextItem : Prop :=
  ∀ (s : State) (k : Nat) (t : Trx), s.trx[k]? = some t →
    (∀ item, t.txArmed = true → t.txseq[t.txPos]? = some item → exec (.enTxShift k) s = .next { s with
      trx := s.trx.set k { t with
        txPos := t.txPos + 1
        wireOut := t.wireOut ++ (match item with
          | .bitcount _ => []
          | .word w => [.w32 w]
          | .crc c => [.b8 c]
          | .trailer => [.eof]
          | .reentry => []
          | .delaycount d => [.gap d]) } }) ∧
    (t.txArmed = false ∨ t.txseq.length ≤ t.txPos → exec (.enTxShift k) s = .next s)

/-- R270 and R272: a word off the bus joins the queue while capture is armed; the queue's first word is stored at index
`RX_COUNT` and counted while there is room, armed or not, with the stores in their form; a full buffer keeps the words in
the queue (R64). That a step which is not enabled changes nothing is the model's choice (log entry 19). -/
def Obligations.CaptureAndTransferEffect : Prop :=
  ∀ (s : State) (k : Nat) (t : Trx) (w : Word32), s.trx[k]? = some t →
    (t.rxArmed = true → exec (.enRxCapture k w) s =
      .next { s with trx := s.trx.set k { t with rxFifo := t.rxFifo ++ [w] } }) ∧
    (t.rxArmed = false → exec (.enRxCapture k w) s = .next s) ∧
    (∀ v rest, t.rxFifo = v :: rest → t.rxCount < s.cfg.rxBufferWords → t.rxbuf.length = t.rxCount →
      exec (.enRxTransfer k) s = .next { s with
        trx := s.trx.set k { t with rxbuf := t.rxbuf ++ [v], rxCount := t.rxCount + 1, rxFifo := rest } }) ∧
    (t.rxFifo = [] ∨ s.cfg.rxBufferWords ≤ t.rxCount → exec (.enRxTransfer k) s = .next s)

/-- THE MODEL'S READING (log entry 4): a `FRAME_WORD` or `CHECKSUM_WORD` that reaches an armed receiver is taken off the
bus as the word R96 and R68 lay out; a tail with stray bits beside its byte is taken as some word, of which nothing is
said (93 U6; log entry 28). One that finds capture not armed changes nothing (log entry 19). -/
def Obligations.WireWordsReachTheCaptureUnit : Prop :=
  ∀ (s : State) (k : Nat) (t : Trx) (c r n l b : Byte), s.trx[k]? = some t →
    (t.rxArmed = true →
      exec (.frameWord k c r n l) s = .next { s with trx := s.trx.set k { t with rxFifo := t.rxFifo ++
        [BitVec.ofNat 32 (c.toNat * 2 ^ 24 + r.toNat * 2 ^ 16 + n.toNat * 2 ^ 8 + l.toNat)] } } ∧
      exec (.checksumWord k ⟨b, 0⟩) s =
        .next { s with trx := s.trx.set k { t with rxFifo := t.rxFifo ++ [BitVec.ofNat 32 b.toNat] } } ∧
      ∀ stray : BitVec 24, stray ≠ 0 → ∃ w, exec (.checksumWord k ⟨b, stray⟩) s = .next { s with
        trx := s.trx.set k { t with rxFifo := t.rxFifo ++ [w] }, draws := s.draws + 1 }) ∧
    (t.rxArmed = false → exec (.frameWord k c r n l) s = .next s ∧
      ∀ stray : BitVec 24, exec (.checksumWord k ⟨b, stray⟩) s = .next s)

/-- R280, R281, R283, R284, R285 and R288: the primitives that write, each with exactly its own fields. -/
def Obligations.PrimitivesWriteTheirOwnFields : Prop :=
  ∀ (s : State) (k : Nat) (t : Trx) (d : Dir), s.trx[k]? = some t →
    exec (.hwTxStart k) s = .next { s with
      trx := s.trx.set k { t with txPos := 0, txArmed := true, wireOut := t.wireOut ++ [.sof] } } ∧
    exec (.hwTxStop k) s = .next { s with trx := s.trx.set k { t with txArmed := false } } ∧
    exec (.hwRxPrepare k) s = .next { s with
      trx := s.trx.set k { t with rxCount := 0, rxFifo := [], rxbuf := [], rxPrepared := true } } ∧
    exec (.hwRxStart k) s = .next { s with
      trx := s.trx.set k { t with rxCount := 0, rxFifo := [], rxbuf := [], rxPrepared := false, rxArmed := true } } ∧
    exec (.hwRxStop k) s = .next { s with trx := s.trx.set k { t with rxArmed := false, rxPrepared := false } } ∧
    exec (.hwDirSet k d) s = .next { s with trx := s.trx.set k { t with dir := d } }

/-- R282, R286 and R287: the primitives that read answer the arm flags and the counter, and write nothing else. -/
def Obligations.PrimitivesReadTheirOwnFields : Prop :=
  ∀ (s : State) (k : Nat) (t : Trx), s.trx[k]? = some t →
    exec (.hwTxIsidle k) s = .next { s with y := { y0 := .u1 (decide (t.txArmed = false)) }, outcome := .ok } ∧
    exec (.hwRxIsidle k) s = .next { s with y := { y0 := .u1 (decide (t.rxArmed = false)) }, outcome := .ok } ∧
    exec (.hwRxProgress k) s = .next { s with y := { y0 := .nat t.rxCount }, outcome := .ok }

/-! ### The machine as a whole -/

/-- R350: what reset leaves, for every configuration, every list of endpoints and every number of instances, each of which
stays as it was constructed. -/
def Obligations.ResetLeavesTheMachineAtRest : Prop :=
  ∀ (c : Cfg) (eps : List Byte) (n : Nat),
    (State.resetWith c eps n).cfg = c ∧ (State.resetWith c eps n).endpoints = eps ∧
    (State.resetWith c eps n).trx.length = n ∧ (State.resetWith c eps n).nextId = 0 ∧
    (State.resetWith c eps n).sched.length = c.maxPriority.toNat + 1 ∧ (∀ b ∈ (State.resetWith c eps n).sched, b = []) ∧
    ∀ t ∈ (State.resetWith c eps n).trx,
      t.state = .idle ∧ t.deadline = none ∧ t.respExpected = false ∧ t.readTimeout = c.noTimeout ∧ t.lastProgress = 0 ∧
      t.lastProgressTime = 0 ∧ t.dir = .input ∧ t.txseq = [] ∧ t.txPos = 0 ∧ t.txArmed = false ∧ t.rxPrepared = false ∧
      t.rxArmed = false ∧ t.rxCount = 0 ∧ t.rxFifo = [] ∧ (∀ i, t.rxRead i = none) ∧ t.poll = none ∧ t.wireOut = [] ∧
      t.res = ⟨.idle, [], 0, .none⟩

/-- R352: right after reset a whole `PROCESS_EVENTS` call on any instance reports `IDLE` and leaves it as it was but for
`RES`, and a `POPNEXT` returns none. The outcome and the latches before are the
model's choice (log entry 3); that one call is two operations is the model's form of R216 (log entry 11). -/
def Obligations.FirstPollAfterResetReportsIdle : Prop :=
  ∀ (c : Cfg) (eps : List Byte) (n k : Nat) (now : Word64), k < n →
    runOps [.processEvents k now, .processEvents k now] (State.resetWith c eps n) =
      .next { State.resetWith c eps n with y := { y0 := .u3 0, y1 := .words [], y2 := .nat 0, y3 := .u3 0 } } ∧
    exec (.popnext now) (State.resetWith c eps n) =
      .next { State.resetWith c eps n with y := { y0 := .transmission none } }

/-- The invariant of R46 holds in the state the spec calls reset, for every admissible configuration. -/
def Obligations.ResetSatisfiesInvariant : Prop :=
  ∀ (c : Cfg) (eps : List Byte) (n : Nat), c.wf → (∀ p ∈ eps, p ≤ c.maxPriority) → (State.resetWith c eps n).Inv

/-- R46: every step keeps the invariant. -/
def Obligations.StepKeepsInvariant : Prop := ∀ s t : State, s.Inv → step s = .next t → t.Inv

/-- R238: from a state that satisfies R46, an operation changes the `STATE` of an instance only
along the table's transitions, each by the operation the table names. -/
def Obligations.TransitionsOfStateAreTheTable : Prop :=
  ∀ (i : Instr) (s t : State) (k : Nat) (u v : Trx), s.Inv → exec i s = .next t → s.trx[k]? = some u → t.trx[k]? = some v →
    u.state = v.state ∨ transitionOf i u.state v.state = true ∧ trxOf i = some k

/-- R366, every row of its table: handlers between the snapshot and the act step of a poll, each at its own time, the first
not before the poll's `now`.
A write that completes and expects a response is not touched, however far the response has come; one that expects none is
reported as timed out exactly when the deadline had passed. A frame that starts, or starts and ends, is dropped exactly when
the read deadline had passed. A frame that ends is lost as overflow or timeout when the buffer is full or the window has run
out, and is left for the next call otherwise. Whatever handlers come, the instance satisfies R46 afterwards.
For the other states R366 says that no handler is possible, since both units are stopped there (R264, R266, R267); that a
signal which is not enabled has no effect, in these states and among the handlers of the last clause, is the model's choice
(log entry 19), and so is the form of a call as two operations (log entry 11). -/
def Obligations.StaleSnapshotOutcomes : Prop :=
  ∀ (s : State) (k : Nat) (t : Trx) (now h₁ h₂ h₃ : Word64), s.trx[k]? = some t → t.Inv s.cfg → t.poll = none →
    now.toNat ≤ h₁.toNat →
    (t.state = .writeInProgress → t.txPos = t.txseq.length → t.respExpected = true →
      ∀ p ∈ [([(h₁, .evTxdone k)], TState.waitingForReadStart), ([(h₁, .evTxdone k), (h₂, .evRxsig k)], .readInProgress),
          ([(h₁, .evTxdone k), (h₂, .evRxsig k), (h₃, .evRxsig k)], .readComplete)],
        ∃ s' u, pollAcross k now p.1 s = .next s' ∧ s'.trx[k]? = some u ∧
          u.state = p.2 ∧ u.rxArmed = decide (p.2 ≠ .readComplete) ∧ u.res = ⟨.writeInProgress, [], 0, .none⟩) ∧
    (t.state = .writeInProgress → t.txPos = t.txseq.length → t.respExpected = false →
      ∃ s' u, pollAcross k now [(h₁, .evTxdone k)] s = .next s' ∧ s'.trx[k]? = some u ∧
        (∀ d, t.deadline = some d → d < now.toNat →
          u.state = .idle ∧ u.dir = .input ∧ u.res = ⟨.writeFailed, [], 0, .timeout⟩) ∧
        ((∀ d, t.deadline = some d → now.toNat ≤ d) →
          u.state = .writeComplete ∧ u.res = ⟨.writeInProgress, [], 0, .none⟩)) ∧
    (t.state = .waitingForReadStart →
      ∀ p ∈ [([(h₁, .evRxsig k)], TState.readInProgress), ([(h₁, .evRxsig k), (h₂, .evRxsig k)], .readComplete)],
        ∃ s' u, pollAcross k now p.1 s = .next s' ∧ s'.trx[k]? = some u ∧
          (∀ d, t.deadline = some d → d < now.toNat →
            u.state = .idle ∧ u.rxArmed = false ∧ u.res = ⟨.readFailed, [], 0, .timeout⟩) ∧
          ((∀ d, t.deadline = some d → now.toNat ≤ d) →
            u.state = p.2 ∧ u.rxArmed = decide (p.2 ≠ .readComplete) ∧ u.res = ⟨.waitingForReadStart, [], 0, .none⟩)) ∧
    (t.state = .readInProgress →
      ∃ s' u, pollAcross k now [(h₁, .evRxsig k)] s = .next s' ∧ s'.trx[k]? = some u ∧ u.rxArmed = false ∧
        (s.cfg.rxBufferWords ≤ t.rxCount → u.state = .idle ∧ u.res = ⟨.readFailed, [], 0, .bufferOverflow⟩) ∧
        (t.rxCount < s.cfg.rxBufferWords → t.rxCount = t.lastProgress →
          t.lastProgressTime.toNat + s.cfg.interWordTimeoutUs < now.toNat →
          u.state = .idle ∧ u.res = ⟨.readFailed, [], 0, .timeout⟩) ∧
        (t.rxCount < s.cfg.rxBufferWords →
          t.rxCount ≠ t.lastProgress ∨ now.toNat ≤ t.lastProgressTime.toNat + s.cfg.interWordTimeoutUs →
          u.state = .readComplete ∧ u.lastProgress = t.rxCount ∧ u.res = ⟨.readInProgress, [], 0, .none⟩ ∧
          u.lastProgressTime = if t.rxCount = t.lastProgress then t.lastProgressTime else now)) ∧
    (t.state ∈ [TState.idle, .writeComplete, .readComplete] →
      exec (.evTxdone k) s = .next s ∧ exec (.evRxsig k) s = .next s) ∧
    ∀ handlers : List (Word64 × Instr), (∀ h ∈ handlers, h.2 = .evTxdone k ∨ h.2 = .evRxsig k) →
      ∃ s' u, pollAcross k now handlers s = .next s' ∧ s'.trx[k]? = some u ∧ u.Inv s.cfg ∧ u.poll = none

/-- R328: instances share no state. An operation on one transceiver leaves every other transceiver, the schedule and
`NEXT_ID` as they were; an operation on none leaves every transceiver as it was. -/
def Obligations.OperationsStayInTheirInstance : Prop :=
  ∀ (i : Instr) (s t : State), exec i s = .next t →
    t.trx.length = s.trx.length ∧
    (∀ k, trxOf i = some k → t.sched = s.sched ∧ t.nextId = s.nextId ∧ ∀ j, j ≠ k → t.trx[j]? = s.trx[j]?) ∧
    (trxOf i = none → t.trx = s.trx)

/-- R328: what an operation does to its transceiver is decided by that instance, the configuration and the inputs alone:
machines that agree in these, and differ in anything else, leave the same instance. The inputs are the samples of the step
and the environment's draws, whose count is the model's own field (log entry 28). -/
def Obligations.InstanceLearnsNothingFromTheRest : Prop :=
  ∀ (i : Instr) (k : Nat) (s s' t : State), trxOf i = some k → s.cfg = s'.cfg → s.time = s'.time → s.lines = s'.lines →
    s.draws = s'.draws → s.trx[k]? = s'.trx[k]? → exec i s = .next t →
    ∃ t', exec i s' = .next t' ∧ t.trx[k]? = t'.trx[k]?

/-- R45 and R26: no step writes the configuration, the endpoints' priorities or the number of instances. -/
def Obligations.StepKeepsTheConfiguration : Prop :=
  ∀ s t : State, step s = .next t → t.cfg = s.cfg ∧ t.endpoints = s.endpoints ∧ t.trx.length = s.trx.length

/-- R40: `WIRE_OUT` only grows, as long as the machine is not reset. -/
def Obligations.WireLogOnlyGrows : Prop :=
  ∀ (s t : State) (k : Nat) (u v : Trx), step s = .next t → (∀ rest, s.turns ≠ .reset :: rest) →
    s.trx[k]? = some u → t.trx[k]? = some v → u.wireOut <+: v.wireOut

/-- R73: a step runs the operation that is presented, by an agent that may issue it, with the inputs sampled and the
foreground's operands in the port's latches; no open call of the addressed instance stands in its way. The list of
turns and the latches of the port are the model's form (log entries 1, 7 and 10). -/
def Obligations.StepRunsThePresentedOperation : Prop :=
  ∀ (s : State) (r : Request) (rest : List Turn) (i : Instr), s.turns = .issue r :: rest → decode r.port = .ok i →
    portIssuer r.port = r.agent → (∀ k, trxOf i = some k → r.agent = .foreground → s.openCall k = none) →
    (∀ op sel x, r.agent = .foreground → r.port = .command op sel x →
      step s = exec i { s with turns := rest, time := r.time, lines := r.lines, op := op, sel := sel, x := x }) ∧
    (r.agent ≠ .foreground → step s = exec i { s with turns := rest, time := r.time, lines := r.lines })

/-- R216 and R200: the act step of an open call runs when the foreground resumes it, and before the next foreground
command to the same transceiver, which stays presented; with nothing presented the machine rests. The model's
choice (log entries 7 and 11). -/
def Obligations.OpenCallEndsBeforeTheNextCommand : Prop :=
  (∀ (s : State) (k : Nat) (q : Poll) (rest : List Turn), s.turns = .resume k :: rest → s.openCall k = some q →
    step s = exec (.processEvents k q.now) { s with turns := rest }) ∧
  (∀ (s : State) (k : Nat) (q : Poll) (r : Request) (rest : List Turn) (op : Byte) (x : Operands),
    s.turns = .issue r :: rest → r.agent = .foreground → r.port = .command op k x → 0x30 ≤ op.toNat → op.toNat < 0x40 →
    s.openCall k = some q → step s = exec (.processEvents k q.now) s) ∧
  ∀ s : State, s.turns = [] → step s = .next s

/-- R353: the reset input sets every element to its reset value at once, from any state. The values of the latches and of
the outcome, and what stays, are the model's choice (log entries 3 and 20). -/
def Obligations.ResetTurnRestoresEveryElement : Prop :=
  ∀ (s : State) (rest : List Turn), s.turns = .reset :: rest →
    step s = .next { State.resetWith s.cfg s.endpoints s.trx.length with
      time := s.time, lines := s.lines, draws := s.draws, turns := rest }

/-- R93 and R361, the model's answer (log entry 8): an operation on an instance that does not exist is refused. -/
def Obligations.AbsentInstancesAreRefused : Prop :=
  (∀ (i : Instr) (s : State) (k : Nat), trxOf i = some k → s.trx[k]? = none →
    exec i s = .refused .noSuchTransceiver) ∧
  ∀ (s : State) (e : Nat) (r : SendRequest) (id : Word32) (addr : Byte), s.endpoints[e]? = none →
    exec (.epAdd e r) s = .refused .noSuchEndpoint ∧ exec (.epCancelById e id) s = .refused .noSuchEndpoint ∧
    exec (.epCancelByRecipient e addr) s = .refused .noSuchEndpoint ∧
    exec (.epCountRecipients e addr) s = .refused .noSuchEndpoint ∧ exec (.epCancelAll e) s = .refused .noSuchEndpoint

/-! ### Frames end to end -/

/-- R131 (c): of a frame captured whole, with its checksum right, one flipped bit of any word of frame and payload is
reported as `CRC_INVALID`, unless the bit is one of the `length` byte. -/
def Obligations.SingleBitErrorIsReported : Prop :=
  ∀ (s : State) (k : Nat) (t : Trx) (q : Poll) (now : Word64) (ws : List Word32) (f c : Word32) (rest : List Word32)
    (i b : Nat) (w : Word32),
    s.trx[k]? = some t → t.poll = some q → q.snap = .readComplete → t.rxFifo = [] →
    ws = f :: rest → rest.length = f.toNat % 256 → c.setWidth 8 = checksumWords ws →
    ws[i]? = some w → b < 32 → ¬(i = 0 ∧ b < 8) →
    t.rxbuf = ws.set i (w ^^^ BitVec.twoPow 32 b) ++ [c] → t.rxCount = t.rxbuf.length →
    ∃ u, exec (.processEvents k now) s = .next (afterAct s k u) ∧ u.state = .idle ∧
      u.res = ⟨.readFailed, [], 0, .crcInvalid⟩

/-- R131 (b), R274, R106: a valid packet sent on transceiver `k`, with any chunking, and the wire symbols of that frame
taken off the bus by transceiver `j` word by word between its start and its end, with transfers to the buffer anywhere
among and after the captures: the sender's call reports the write complete, the receiver's call reports exactly the frame
word and the payload that were sent. It rests on the complete drain of R224, which is unsafe for this claim (log entry 13),
on a call being two operations (log entry 11), on whole words on the wire (log entry 24), and, for a transfer with nothing
to move, on log entry 19. -/
def Obligations.LoopedBackFrameValidates : Prop :=
  ∀ (s : State) (k j : Nat) (t v : Trx) (p : Packet) (tm now : Word64) (ch : Option Chunking) (syms : List Symbol)
    (captures : List Instr) (afterEnd inCall : Nat),
    s.Inv → k ≠ j → s.trx[k]? = some t → s.trx[j]? = some v → t.state = .idle → v.state = .idle →
    t.poll = none → v.poll = none → (∀ l ∈ s.lines, l.lineA = true ∧ l.lineB = true) →
    p.payload.length ≤ 255 → p.frame.length.toNat = p.payload.length → (∀ c, ch = some c → 1 ≤ c.chunkWords) →
    syms = (buildSequence p (packetChecksum p) ch).flatMap TxItem.symbols →
    captures.filter (fun i => decide (i ≠ .enRxTransfer j)) = (syms.flatMap Symbol.captured).map (.enRxCapture j) →
    ∃ s' t' v', runOps
        ([.startRead j s.cfg.noTimeout, .write k p false tm ch] ++
          (buildSequence p (packetChecksum p) ch).map (fun _ => .enTxShift k) ++ [.evTxdone k, .evRxsig j] ++ captures ++
          [.evRxsig j] ++ List.replicate afterEnd (.enRxTransfer j) ++
          [.processEvents k now, .processEvents k now, .processEvents j now] ++
          List.replicate inCall (.enRxTransfer j) ++ [.processEvents j now]) s = .next s' ∧
      s'.trx[k]? = some t' ∧ s'.trx[j]? = some v' ∧
      t'.wireOut = t.wireOut ++ .sof :: syms ∧ t'.state = .idle ∧ t'.res = ⟨.writeComplete, [], 0, .none⟩ ∧
      v'.state = .idle ∧ v'.res = ⟨.readComplete, p.frame.toWord :: p.payload, p.payload.length + 1, .none⟩

/-- R108, R67: a shifter step puts the data bits of its item on the bus behind those before, the 32 bits of a word and the 8
of the checksum byte in `WIRE_BIT_ORDER`, and no data bit for any other item. The bits of the bus are a view of `WIRE_OUT`
(log entry 24). -/
def Obligations.ShiftedBitsFollowTheWireBitOrder : Prop :=
  ∀ (s : State) (k : Nat) (t : Trx) (item : TxItem), s.trx[k]? = some t → t.txArmed = true →
    t.txseq[t.txPos]? = some item → ∃ u bits,
      exec (.enTxShift k) s = .next { s with trx := s.trx.set k u } ∧ u.busBits s.cfg = t.busBits s.cfg ++ bits ∧
      (∀ w, item = .word w → bits.length = 32 ∧ ∀ i, i < 32 →
        (s.cfg.wireBitOrder = .msbFirst → bits[i]? = some (w.getLsbD (31 - i))) ∧
        (s.cfg.wireBitOrder = .lsbFirst → bits[i]? = some (w.getLsbD i))) ∧
      (∀ c, item = .crc c → bits.length = 8 ∧ ∀ i, i < 8 →
        (s.cfg.wireBitOrder = .msbFirst → bits[i]? = some (c.getLsbD (7 - i))) ∧
        (s.cfg.wireBitOrder = .lsbFirst → bits[i]? = some (c.getLsbD i))) ∧
      ((∀ w, item ≠ .word w) → (∀ c, item ≠ .crc c) → bits = [])
end

