-- ==== Sys2Proof/Laws/Decode.lean ====
section
/-! SUPPORT. The fields of the two wire words, and what a typed decoding answers. -/

namespace Sys2Proof

/-- A typed decoding answers an operation exactly when the latches carry its operands' types (R93). -/
theorem typed_eq_ok {o : Option Instr} {i : Instr} : typed o = .ok i ↔ o = some i := by
  cases o <;> simp [typed]

/-- The frame word as a number: each field at its place (R96). -/
theorem Frame.toWord_toNat (f : Frame) : f.toWord.toNat =
    f.command.toNat * 2 ^ 24 + f.recipientAddr.toNat * 2 ^ 16 + f.senderAddr.toNat * 2 ^ 8 + f.length.toNat := by
  simp only [Frame.toWord, BitVec.toNat_append]
  rw [← Nat.shiftLeft_add_eq_or_of_lt f.recipientAddr.isLt, ← Nat.shiftLeft_add_eq_or_of_lt f.senderAddr.isLt,
    ← Nat.shiftLeft_add_eq_or_of_lt f.length.isLt]
  simp only [Nat.shiftLeft_eq]
  omega

/-- The fields of a frame word are those it was made of (R96). -/
@[simp] theorem frameOfWord_toWord (f : Frame) : frameOfWord f.toWord = f := by
  obtain ⟨c, r, s, l⟩ := f
  simp only [frameOfWord, Frame.toWord, Frame.mk.injEq]
  refine ⟨?_, ?_, ?_, ?_⟩ <;> ext i hi <;> simp <;> grind

/-- The declared length is the low byte of the frame word (R110). -/
theorem frameOfWord_length_toNat (w : Word32) : (frameOfWord w).length.toNat = w.toNat % 256 := by
  simp [frameOfWord]

/-- The received checksum byte is the low byte of its word (R110). -/
theorem lowByte_eq_setWidth (w : Word32) : lowByte w = w.setWidth 8 := by
  ext i hi
  simp [lowByte]

/-- The checksum byte is read back from its word (R68). -/
@[simp] theorem lowByte_checksumToWord (c : Byte) : lowByte (checksumToWord c) = c := by
  ext i hi
  simp [lowByte, checksumToWord, hi, show i < 32 by omega]

/-- The tail a word is read as is the one the word was made of (R68). -/
@[simp] theorem tailOfWord_toWord (t : Tail) : tailOfWord t.toWord = t := by
  obtain ⟨c, stray⟩ := t
  simp only [tailOfWord, lowByte, Tail.toWord, Tail.mk.injEq]
  constructor
  · ext i hi
    have h := BitVec.getLsbD_append (x := stray) (y := c) (i := i)
    simp_all
  · ext i hi
    have h := BitVec.getLsbD_append (x := stray) (y := c) (i := 8 + i)
    simp_all

/-- A checksum byte zero-extended is a tail with no stray bit (R68, R109). -/
@[simp] theorem Tail.isByte_checksumToWord (c : Byte) : (tailOfWord (checksumToWord c)).isByte = true := by
  simp only [tailOfWord, Tail.isByte, beq_iff_eq]
  ext i hi
  simp [checksumToWord]

end Sys2Proof
end

