-- ==== Sys2Proof/Laws/State.lean ====
section
/-! SUPPORT. One lemma per field per update, each true by unfolding, so that no later proof unfolds a record update. -/

namespace Sys2Proof.Machine

/-! ### Updates of the machine -/

@[simp] theorem State.report_cfg (s : State) (o : PortOutcome) (r : Results) : (s.report o r).cfg = s.cfg := rfl
@[simp] theorem State.report_endpoints (s : State) (o : PortOutcome) (r : Results) : (s.report o r).endpoints = s.endpoints := rfl
@[simp] theorem State.report_nextId (s : State) (o : PortOutcome) (r : Results) : (s.report o r).nextId = s.nextId := rfl
@[simp] theorem State.report_sched (s : State) (o : PortOutcome) (r : Results) : (s.report o r).sched = s.sched := rfl
@[simp] theorem State.report_trx (s : State) (o : PortOutcome) (r : Results) : (s.report o r).trx = s.trx := rfl
@[simp] theorem State.report_op (s : State) (o : PortOutcome) (r : Results) : (s.report o r).op = s.op := rfl
@[simp] theorem State.report_sel (s : State) (o : PortOutcome) (r : Results) : (s.report o r).sel = s.sel := rfl
@[simp] theorem State.report_x (s : State) (o : PortOutcome) (r : Results) : (s.report o r).x = s.x := rfl
@[simp] theorem State.report_y (s : State) (o : PortOutcome) (r : Results) : (s.report o r).y = r := rfl
@[simp] theorem State.report_outcome (s : State) (o : PortOutcome) (r : Results) : (s.report o r).outcome = o := rfl
@[simp] theorem State.report_time (s : State) (o : PortOutcome) (r : Results) : (s.report o r).time = s.time := rfl
@[simp] theorem State.report_lines (s : State) (o : PortOutcome) (r : Results) : (s.report o r).lines = s.lines := rfl
@[simp] theorem State.report_turns (s : State) (o : PortOutcome) (r : Results) : (s.report o r).turns = s.turns := rfl
@[simp] theorem State.report_draws (s : State) (o : PortOutcome) (r : Results) : (s.report o r).draws = s.draws := rfl

@[simp] theorem State.answer_cfg (s : State) (v : Latch) : (s.answer v).cfg = s.cfg := rfl
@[simp] theorem State.answer_endpoints (s : State) (v : Latch) : (s.answer v).endpoints = s.endpoints := rfl
@[simp] theorem State.answer_nextId (s : State) (v : Latch) : (s.answer v).nextId = s.nextId := rfl
@[simp] theorem State.answer_sched (s : State) (v : Latch) : (s.answer v).sched = s.sched := rfl
@[simp] theorem State.answer_trx (s : State) (v : Latch) : (s.answer v).trx = s.trx := rfl
@[simp] theorem State.answer_op (s : State) (v : Latch) : (s.answer v).op = s.op := rfl
@[simp] theorem State.answer_sel (s : State) (v : Latch) : (s.answer v).sel = s.sel := rfl
@[simp] theorem State.answer_x (s : State) (v : Latch) : (s.answer v).x = s.x := rfl
@[simp] theorem State.answer_y (s : State) (v : Latch) : (s.answer v).y = { y0 := v } := rfl
@[simp] theorem State.answer_outcome (s : State) (v : Latch) : (s.answer v).outcome = .ok := rfl
@[simp] theorem State.answer_time (s : State) (v : Latch) : (s.answer v).time = s.time := rfl
@[simp] theorem State.answer_lines (s : State) (v : Latch) : (s.answer v).lines = s.lines := rfl
@[simp] theorem State.answer_turns (s : State) (v : Latch) : (s.answer v).turns = s.turns := rfl
@[simp] theorem State.answer_draws (s : State) (v : Latch) : (s.answer v).draws = s.draws := rfl

@[simp] theorem State.answerCount_cfg (s : State) (n : Word32) : (s.answerCount n).cfg = s.cfg := rfl
@[simp] theorem State.answerCount_endpoints (s : State) (n : Word32) : (s.answerCount n).endpoints = s.endpoints := rfl
@[simp] theorem State.answerCount_nextId (s : State) (n : Word32) : (s.answerCount n).nextId = s.nextId := rfl
@[simp] theorem State.answerCount_sched (s : State) (n : Word32) : (s.answerCount n).sched = s.sched := rfl
@[simp] theorem State.answerCount_trx (s : State) (n : Word32) : (s.answerCount n).trx = s.trx := rfl
@[simp] theorem State.answerCount_op (s : State) (n : Word32) : (s.answerCount n).op = s.op := rfl
@[simp] theorem State.answerCount_sel (s : State) (n : Word32) : (s.answerCount n).sel = s.sel := rfl
@[simp] theorem State.answerCount_x (s : State) (n : Word32) : (s.answerCount n).x = s.x := rfl
@[simp] theorem State.answerCount_y (s : State) (n : Word32) : (s.answerCount n).y = { y0 := .u32 n, flag := .count } := rfl
@[simp] theorem State.answerCount_outcome (s : State) (n : Word32) : (s.answerCount n).outcome = .ok := rfl
@[simp] theorem State.answerCount_time (s : State) (n : Word32) : (s.answerCount n).time = s.time := rfl
@[simp] theorem State.answerCount_lines (s : State) (n : Word32) : (s.answerCount n).lines = s.lines := rfl
@[simp] theorem State.answerCount_turns (s : State) (n : Word32) : (s.answerCount n).turns = s.turns := rfl
@[simp] theorem State.answerCount_draws (s : State) (n : Word32) : (s.answerCount n).draws = s.draws := rfl

@[simp] theorem State.accept_cfg (s : State) : (s.accept).cfg = s.cfg := rfl
@[simp] theorem State.accept_endpoints (s : State) : (s.accept).endpoints = s.endpoints := rfl
@[simp] theorem State.accept_nextId (s : State) : (s.accept).nextId = s.nextId := rfl
@[simp] theorem State.accept_sched (s : State) : (s.accept).sched = s.sched := rfl
@[simp] theorem State.accept_trx (s : State) : (s.accept).trx = s.trx := rfl
@[simp] theorem State.accept_op (s : State) : (s.accept).op = s.op := rfl
@[simp] theorem State.accept_sel (s : State) : (s.accept).sel = s.sel := rfl
@[simp] theorem State.accept_x (s : State) : (s.accept).x = s.x := rfl
@[simp] theorem State.accept_y (s : State) : (s.accept).y = { y0 := .u1 true, flag := .accepted } := rfl
@[simp] theorem State.accept_outcome (s : State) : (s.accept).outcome = .ok := rfl
@[simp] theorem State.accept_time (s : State) : (s.accept).time = s.time := rfl
@[simp] theorem State.accept_lines (s : State) : (s.accept).lines = s.lines := rfl
@[simp] theorem State.accept_turns (s : State) : (s.accept).turns = s.turns := rfl
@[simp] theorem State.accept_draws (s : State) : (s.accept).draws = s.draws := rfl

@[simp] theorem State.notAccept_cfg (s : State) : (s.notAccept).cfg = s.cfg := rfl
@[simp] theorem State.notAccept_endpoints (s : State) : (s.notAccept).endpoints = s.endpoints := rfl
@[simp] theorem State.notAccept_nextId (s : State) : (s.notAccept).nextId = s.nextId := rfl
@[simp] theorem State.notAccept_sched (s : State) : (s.notAccept).sched = s.sched := rfl
@[simp] theorem State.notAccept_trx (s : State) : (s.notAccept).trx = s.trx := rfl
@[simp] theorem State.notAccept_op (s : State) : (s.notAccept).op = s.op := rfl
@[simp] theorem State.notAccept_sel (s : State) : (s.notAccept).sel = s.sel := rfl
@[simp] theorem State.notAccept_x (s : State) : (s.notAccept).x = s.x := rfl
@[simp] theorem State.notAccept_y (s : State) : (s.notAccept).y = { y0 := .u1 false, flag := .accepted } := rfl
@[simp] theorem State.notAccept_outcome (s : State) : (s.notAccept).outcome = .notAccepted := rfl
@[simp] theorem State.notAccept_time (s : State) : (s.notAccept).time = s.time := rfl
@[simp] theorem State.notAccept_lines (s : State) : (s.notAccept).lines = s.lines := rfl
@[simp] theorem State.notAccept_turns (s : State) : (s.notAccept).turns = s.turns := rfl
@[simp] theorem State.notAccept_draws (s : State) : (s.notAccept).draws = s.draws := rfl

@[simp] theorem State.illegal_cfg (s : State) : (s.illegal).cfg = s.cfg := rfl
@[simp] theorem State.illegal_endpoints (s : State) : (s.illegal).endpoints = s.endpoints := rfl
@[simp] theorem State.illegal_nextId (s : State) : (s.illegal).nextId = s.nextId := rfl
@[simp] theorem State.illegal_sched (s : State) : (s.illegal).sched = s.sched := rfl
@[simp] theorem State.illegal_trx (s : State) : (s.illegal).trx = s.trx := rfl
@[simp] theorem State.illegal_op (s : State) : (s.illegal).op = s.op := rfl
@[simp] theorem State.illegal_sel (s : State) : (s.illegal).sel = s.sel := rfl
@[simp] theorem State.illegal_x (s : State) : (s.illegal).x = s.x := rfl
@[simp] theorem State.illegal_y (s : State) : (s.illegal).y = s.y := rfl
@[simp] theorem State.illegal_outcome (s : State) : (s.illegal).outcome = .illegalOperation := rfl
@[simp] theorem State.illegal_time (s : State) : (s.illegal).time = s.time := rfl
@[simp] theorem State.illegal_lines (s : State) : (s.illegal).lines = s.lines := rfl
@[simp] theorem State.illegal_turns (s : State) : (s.illegal).turns = s.turns := rfl
@[simp] theorem State.illegal_draws (s : State) : (s.illegal).draws = s.draws := rfl

@[simp] theorem State.setTrx_cfg (s : State) (k : Nat) (t : Trx) : (s.setTrx k t).cfg = s.cfg := rfl
@[simp] theorem State.setTrx_endpoints (s : State) (k : Nat) (t : Trx) : (s.setTrx k t).endpoints = s.endpoints := rfl
@[simp] theorem State.setTrx_nextId (s : State) (k : Nat) (t : Trx) : (s.setTrx k t).nextId = s.nextId := rfl
@[simp] theorem State.setTrx_sched (s : State) (k : Nat) (t : Trx) : (s.setTrx k t).sched = s.sched := rfl
@[simp] theorem State.setTrx_trx (s : State) (k : Nat) (t : Trx) : (s.setTrx k t).trx = s.trx.set k t := rfl
@[simp] theorem State.setTrx_op (s : State) (k : Nat) (t : Trx) : (s.setTrx k t).op = s.op := rfl
@[simp] theorem State.setTrx_sel (s : State) (k : Nat) (t : Trx) : (s.setTrx k t).sel = s.sel := rfl
@[simp] theorem State.setTrx_x (s : State) (k : Nat) (t : Trx) : (s.setTrx k t).x = s.x := rfl
@[simp] theorem State.setTrx_y (s : State) (k : Nat) (t : Trx) : (s.setTrx k t).y = s.y := rfl
@[simp] theorem State.setTrx_outcome (s : State) (k : Nat) (t : Trx) : (s.setTrx k t).outcome = s.outcome := rfl
@[simp] theorem State.setTrx_time (s : State) (k : Nat) (t : Trx) : (s.setTrx k t).time = s.time := rfl
@[simp] theorem State.setTrx_lines (s : State) (k : Nat) (t : Trx) : (s.setTrx k t).lines = s.lines := rfl
@[simp] theorem State.setTrx_turns (s : State) (k : Nat) (t : Trx) : (s.setTrx k t).turns = s.turns := rfl
@[simp] theorem State.setTrx_draws (s : State) (k : Nat) (t : Trx) : (s.setTrx k t).draws = s.draws := rfl

/-! ### The status outputs -/

@[simp] theorem State.accept_accepted (s : State) : s.accept.accepted = some true := rfl
@[simp] theorem State.notAccept_accepted (s : State) : s.notAccept.accepted = some false := rfl
@[simp] theorem State.answerCount_count (s : State) (n : Word32) : (s.answerCount n).count = some n := rfl
@[simp] theorem State.answer_accepted (s : State) (v : Latch) : (s.answer v).accepted = none := rfl
@[simp] theorem State.answer_count (s : State) (v : Latch) : (s.answer v).count = none := rfl
@[simp] theorem State.answerCount_accepted (s : State) (n : Word32) : (s.answerCount n).accepted = none := rfl
@[simp] theorem State.accept_count (s : State) : s.accept.count = none := rfl
@[simp] theorem State.notAccept_count (s : State) : s.notAccept.count = none := rfl

/-! ### Updates of one transceiver -/

@[simp] theorem Trx.txStart_state (t : Trx) : (t.txStart).state = t.state := rfl
@[simp] theorem Trx.txStart_deadline (t : Trx) : (t.txStart).deadline = t.deadline := rfl
@[simp] theorem Trx.txStart_respExpected (t : Trx) : (t.txStart).respExpected = t.respExpected := rfl
@[simp] theorem Trx.txStart_readTimeout (t : Trx) : (t.txStart).readTimeout = t.readTimeout := rfl
@[simp] theorem Trx.txStart_lastProgress (t : Trx) : (t.txStart).lastProgress = t.lastProgress := rfl
@[simp] theorem Trx.txStart_lastProgressTime (t : Trx) : (t.txStart).lastProgressTime = t.lastProgressTime := rfl
@[simp] theorem Trx.txStart_dir (t : Trx) : (t.txStart).dir = t.dir := rfl
@[simp] theorem Trx.txStart_txseq (t : Trx) : (t.txStart).txseq = t.txseq := rfl
@[simp] theorem Trx.txStart_txPos (t : Trx) : (t.txStart).txPos = 0 := rfl
@[simp] theorem Trx.txStart_txArmed (t : Trx) : (t.txStart).txArmed = true := rfl
@[simp] theorem Trx.txStart_rxPrepared (t : Trx) : (t.txStart).rxPrepared = t.rxPrepared := rfl
@[simp] theorem Trx.txStart_rxArmed (t : Trx) : (t.txStart).rxArmed = t.rxArmed := rfl
@[simp] theorem Trx.txStart_rxCount (t : Trx) : (t.txStart).rxCount = t.rxCount := rfl
@[simp] theorem Trx.txStart_rxFifo (t : Trx) : (t.txStart).rxFifo = t.rxFifo := rfl
@[simp] theorem Trx.txStart_rxbuf (t : Trx) : (t.txStart).rxbuf = t.rxbuf := rfl
@[simp] theorem Trx.txStart_poll (t : Trx) : (t.txStart).poll = t.poll := rfl
@[simp] theorem Trx.txStart_wireOut (t : Trx) : (t.txStart).wireOut = t.wireOut ++ [.sof] := rfl
@[simp] theorem Trx.txStart_res (t : Trx) : (t.txStart).res = t.res := rfl

@[simp] theorem Trx.txStop_state (t : Trx) : (t.txStop).state = t.state := rfl
@[simp] theorem Trx.txStop_deadline (t : Trx) : (t.txStop).deadline = t.deadline := rfl
@[simp] theorem Trx.txStop_respExpected (t : Trx) : (t.txStop).respExpected = t.respExpected := rfl
@[simp] theorem Trx.txStop_readTimeout (t : Trx) : (t.txStop).readTimeout = t.readTimeout := rfl
@[simp] theorem Trx.txStop_lastProgress (t : Trx) : (t.txStop).lastProgress = t.lastProgress := rfl
@[simp] theorem Trx.txStop_lastProgressTime (t : Trx) : (t.txStop).lastProgressTime = t.lastProgressTime := rfl
@[simp] theorem Trx.txStop_dir (t : Trx) : (t.txStop).dir = t.dir := rfl
@[simp] theorem Trx.txStop_txseq (t : Trx) : (t.txStop).txseq = t.txseq := rfl
@[simp] theorem Trx.txStop_txPos (t : Trx) : (t.txStop).txPos = t.txPos := rfl
@[simp] theorem Trx.txStop_txArmed (t : Trx) : (t.txStop).txArmed = false := rfl
@[simp] theorem Trx.txStop_rxPrepared (t : Trx) : (t.txStop).rxPrepared = t.rxPrepared := rfl
@[simp] theorem Trx.txStop_rxArmed (t : Trx) : (t.txStop).rxArmed = t.rxArmed := rfl
@[simp] theorem Trx.txStop_rxCount (t : Trx) : (t.txStop).rxCount = t.rxCount := rfl
@[simp] theorem Trx.txStop_rxFifo (t : Trx) : (t.txStop).rxFifo = t.rxFifo := rfl
@[simp] theorem Trx.txStop_rxbuf (t : Trx) : (t.txStop).rxbuf = t.rxbuf := rfl
@[simp] theorem Trx.txStop_poll (t : Trx) : (t.txStop).poll = t.poll := rfl
@[simp] theorem Trx.txStop_wireOut (t : Trx) : (t.txStop).wireOut = t.wireOut := rfl
@[simp] theorem Trx.txStop_res (t : Trx) : (t.txStop).res = t.res := rfl

@[simp] theorem Trx.rxPrepare_state (t : Trx) : (t.rxPrepare).state = t.state := rfl
@[simp] theorem Trx.rxPrepare_deadline (t : Trx) : (t.rxPrepare).deadline = t.deadline := rfl
@[simp] theorem Trx.rxPrepare_respExpected (t : Trx) : (t.rxPrepare).respExpected = t.respExpected := rfl
@[simp] theorem Trx.rxPrepare_readTimeout (t : Trx) : (t.rxPrepare).readTimeout = t.readTimeout := rfl
@[simp] theorem Trx.rxPrepare_lastProgress (t : Trx) : (t.rxPrepare).lastProgress = t.lastProgress := rfl
@[simp] theorem Trx.rxPrepare_lastProgressTime (t : Trx) : (t.rxPrepare).lastProgressTime = t.lastProgressTime := rfl
@[simp] theorem Trx.rxPrepare_dir (t : Trx) : (t.rxPrepare).dir = t.dir := rfl
@[simp] theorem Trx.rxPrepare_txseq (t : Trx) : (t.rxPrepare).txseq = t.txseq := rfl
@[simp] theorem Trx.rxPrepare_txPos (t : Trx) : (t.rxPrepare).txPos = t.txPos := rfl
@[simp] theorem Trx.rxPrepare_txArmed (t : Trx) : (t.rxPrepare).txArmed = t.txArmed := rfl
@[simp] theorem Trx.rxPrepare_rxPrepared (t : Trx) : (t.rxPrepare).rxPrepared = true := rfl
@[simp] theorem Trx.rxPrepare_rxArmed (t : Trx) : (t.rxPrepare).rxArmed = t.rxArmed := rfl
@[simp] theorem Trx.rxPrepare_rxCount (t : Trx) : (t.rxPrepare).rxCount = 0 := rfl
@[simp] theorem Trx.rxPrepare_rxFifo (t : Trx) : (t.rxPrepare).rxFifo = [] := rfl
@[simp] theorem Trx.rxPrepare_rxbuf (t : Trx) : (t.rxPrepare).rxbuf = [] := rfl
@[simp] theorem Trx.rxPrepare_poll (t : Trx) : (t.rxPrepare).poll = t.poll := rfl
@[simp] theorem Trx.rxPrepare_wireOut (t : Trx) : (t.rxPrepare).wireOut = t.wireOut := rfl
@[simp] theorem Trx.rxPrepare_res (t : Trx) : (t.rxPrepare).res = t.res := rfl

@[simp] theorem Trx.rxStart_state (t : Trx) : (t.rxStart).state = t.state := rfl
@[simp] theorem Trx.rxStart_deadline (t : Trx) : (t.rxStart).deadline = t.deadline := rfl
@[simp] theorem Trx.rxStart_respExpected (t : Trx) : (t.rxStart).respExpected = t.respExpected := rfl
@[simp] theorem Trx.rxStart_readTimeout (t : Trx) : (t.rxStart).readTimeout = t.readTimeout := rfl
@[simp] theorem Trx.rxStart_lastProgress (t : Trx) : (t.rxStart).lastProgress = t.lastProgress := rfl
@[simp] theorem Trx.rxStart_lastProgressTime (t : Trx) : (t.rxStart).lastProgressTime = t.lastProgressTime := rfl
@[simp] theorem Trx.rxStart_dir (t : Trx) : (t.rxStart).dir = t.dir := rfl
@[simp] theorem Trx.rxStart_txseq (t : Trx) : (t.rxStart).txseq = t.txseq := rfl
@[simp] theorem Trx.rxStart_txPos (t : Trx) : (t.rxStart).txPos = t.txPos := rfl
@[simp] theorem Trx.rxStart_txArmed (t : Trx) : (t.rxStart).txArmed = t.txArmed := rfl
@[simp] theorem Trx.rxStart_rxPrepared (t : Trx) : (t.rxStart).rxPrepared = false := rfl
@[simp] theorem Trx.rxStart_rxArmed (t : Trx) : (t.rxStart).rxArmed = true := rfl
@[simp] theorem Trx.rxStart_rxCount (t : Trx) : (t.rxStart).rxCount = 0 := rfl
@[simp] theorem Trx.rxStart_rxFifo (t : Trx) : (t.rxStart).rxFifo = [] := rfl
@[simp] theorem Trx.rxStart_rxbuf (t : Trx) : (t.rxStart).rxbuf = [] := rfl
@[simp] theorem Trx.rxStart_poll (t : Trx) : (t.rxStart).poll = t.poll := rfl
@[simp] theorem Trx.rxStart_wireOut (t : Trx) : (t.rxStart).wireOut = t.wireOut := rfl
@[simp] theorem Trx.rxStart_res (t : Trx) : (t.rxStart).res = t.res := rfl

@[simp] theorem Trx.rxStop_state (t : Trx) : (t.rxStop).state = t.state := rfl
@[simp] theorem Trx.rxStop_deadline (t : Trx) : (t.rxStop).deadline = t.deadline := rfl
@[simp] theorem Trx.rxStop_respExpected (t : Trx) : (t.rxStop).respExpected = t.respExpected := rfl
@[simp] theorem Trx.rxStop_readTimeout (t : Trx) : (t.rxStop).readTimeout = t.readTimeout := rfl
@[simp] theorem Trx.rxStop_lastProgress (t : Trx) : (t.rxStop).lastProgress = t.lastProgress := rfl
@[simp] theorem Trx.rxStop_lastProgressTime (t : Trx) : (t.rxStop).lastProgressTime = t.lastProgressTime := rfl
@[simp] theorem Trx.rxStop_dir (t : Trx) : (t.rxStop).dir = t.dir := rfl
@[simp] theorem Trx.rxStop_txseq (t : Trx) : (t.rxStop).txseq = t.txseq := rfl
@[simp] theorem Trx.rxStop_txPos (t : Trx) : (t.rxStop).txPos = t.txPos := rfl
@[simp] theorem Trx.rxStop_txArmed (t : Trx) : (t.rxStop).txArmed = t.txArmed := rfl
@[simp] theorem Trx.rxStop_rxPrepared (t : Trx) : (t.rxStop).rxPrepared = false := rfl
@[simp] theorem Trx.rxStop_rxArmed (t : Trx) : (t.rxStop).rxArmed = false := rfl
@[simp] theorem Trx.rxStop_rxCount (t : Trx) : (t.rxStop).rxCount = t.rxCount := rfl
@[simp] theorem Trx.rxStop_rxFifo (t : Trx) : (t.rxStop).rxFifo = t.rxFifo := rfl
@[simp] theorem Trx.rxStop_rxbuf (t : Trx) : (t.rxStop).rxbuf = t.rxbuf := rfl
@[simp] theorem Trx.rxStop_poll (t : Trx) : (t.rxStop).poll = t.poll := rfl
@[simp] theorem Trx.rxStop_wireOut (t : Trx) : (t.rxStop).wireOut = t.wireOut := rfl
@[simp] theorem Trx.rxStop_res (t : Trx) : (t.rxStop).res = t.res := rfl

@[simp] theorem Trx.dirSet_state (t : Trx) (d : Dir) : (t.dirSet d).state = t.state := rfl
@[simp] theorem Trx.dirSet_deadline (t : Trx) (d : Dir) : (t.dirSet d).deadline = t.deadline := rfl
@[simp] theorem Trx.dirSet_respExpected (t : Trx) (d : Dir) : (t.dirSet d).respExpected = t.respExpected := rfl
@[simp] theorem Trx.dirSet_readTimeout (t : Trx) (d : Dir) : (t.dirSet d).readTimeout = t.readTimeout := rfl
@[simp] theorem Trx.dirSet_lastProgress (t : Trx) (d : Dir) : (t.dirSet d).lastProgress = t.lastProgress := rfl
@[simp] theorem Trx.dirSet_lastProgressTime (t : Trx) (d : Dir) : (t.dirSet d).lastProgressTime = t.lastProgressTime := rfl
@[simp] theorem Trx.dirSet_dir (t : Trx) (d : Dir) : (t.dirSet d).dir = d := rfl
@[simp] theorem Trx.dirSet_txseq (t : Trx) (d : Dir) : (t.dirSet d).txseq = t.txseq := rfl
@[simp] theorem Trx.dirSet_txPos (t : Trx) (d : Dir) : (t.dirSet d).txPos = t.txPos := rfl
@[simp] theorem Trx.dirSet_txArmed (t : Trx) (d : Dir) : (t.dirSet d).txArmed = t.txArmed := rfl
@[simp] theorem Trx.dirSet_rxPrepared (t : Trx) (d : Dir) : (t.dirSet d).rxPrepared = t.rxPrepared := rfl
@[simp] theorem Trx.dirSet_rxArmed (t : Trx) (d : Dir) : (t.dirSet d).rxArmed = t.rxArmed := rfl
@[simp] theorem Trx.dirSet_rxCount (t : Trx) (d : Dir) : (t.dirSet d).rxCount = t.rxCount := rfl
@[simp] theorem Trx.dirSet_rxFifo (t : Trx) (d : Dir) : (t.dirSet d).rxFifo = t.rxFifo := rfl
@[simp] theorem Trx.dirSet_rxbuf (t : Trx) (d : Dir) : (t.dirSet d).rxbuf = t.rxbuf := rfl
@[simp] theorem Trx.dirSet_poll (t : Trx) (d : Dir) : (t.dirSet d).poll = t.poll := rfl
@[simp] theorem Trx.dirSet_wireOut (t : Trx) (d : Dir) : (t.dirSet d).wireOut = t.wireOut := rfl
@[simp] theorem Trx.dirSet_res (t : Trx) (d : Dir) : (t.dirSet d).res = t.res := rfl

@[simp] theorem Trx.snapshot_state (now : Word64) (t : Trx) : (t.snapshot now).state = t.state := rfl
@[simp] theorem Trx.snapshot_deadline (now : Word64) (t : Trx) : (t.snapshot now).deadline = t.deadline := rfl
@[simp] theorem Trx.snapshot_respExpected (now : Word64) (t : Trx) : (t.snapshot now).respExpected = t.respExpected := rfl
@[simp] theorem Trx.snapshot_readTimeout (now : Word64) (t : Trx) : (t.snapshot now).readTimeout = t.readTimeout := rfl
@[simp] theorem Trx.snapshot_lastProgress (now : Word64) (t : Trx) : (t.snapshot now).lastProgress = t.lastProgress := rfl
@[simp] theorem Trx.snapshot_lastProgressTime (now : Word64) (t : Trx) : (t.snapshot now).lastProgressTime = t.lastProgressTime := rfl
@[simp] theorem Trx.snapshot_dir (now : Word64) (t : Trx) : (t.snapshot now).dir = t.dir := rfl
@[simp] theorem Trx.snapshot_txseq (now : Word64) (t : Trx) : (t.snapshot now).txseq = t.txseq := rfl
@[simp] theorem Trx.snapshot_txPos (now : Word64) (t : Trx) : (t.snapshot now).txPos = t.txPos := rfl
@[simp] theorem Trx.snapshot_txArmed (now : Word64) (t : Trx) : (t.snapshot now).txArmed = t.txArmed := rfl
@[simp] theorem Trx.snapshot_rxPrepared (now : Word64) (t : Trx) : (t.snapshot now).rxPrepared = t.rxPrepared := rfl
@[simp] theorem Trx.snapshot_rxArmed (now : Word64) (t : Trx) : (t.snapshot now).rxArmed = t.rxArmed := rfl
@[simp] theorem Trx.snapshot_rxCount (now : Word64) (t : Trx) : (t.snapshot now).rxCount = t.rxCount := rfl
@[simp] theorem Trx.snapshot_rxFifo (now : Word64) (t : Trx) : (t.snapshot now).rxFifo = t.rxFifo := rfl
@[simp] theorem Trx.snapshot_rxbuf (now : Word64) (t : Trx) : (t.snapshot now).rxbuf = t.rxbuf := rfl
@[simp] theorem Trx.snapshot_poll (now : Word64) (t : Trx) : (t.snapshot now).poll = some ⟨t.state, now⟩ := rfl
@[simp] theorem Trx.snapshot_wireOut (now : Word64) (t : Trx) : (t.snapshot now).wireOut = t.wireOut := rfl
@[simp] theorem Trx.snapshot_res (now : Word64) (t : Trx) : (t.snapshot now).res = t.res := rfl

@[simp] theorem Trx.finish_state (t : Trx) (r : Res) : (t.finish r).state = t.state := rfl
@[simp] theorem Trx.finish_deadline (t : Trx) (r : Res) : (t.finish r).deadline = t.deadline := rfl
@[simp] theorem Trx.finish_respExpected (t : Trx) (r : Res) : (t.finish r).respExpected = t.respExpected := rfl
@[simp] theorem Trx.finish_readTimeout (t : Trx) (r : Res) : (t.finish r).readTimeout = t.readTimeout := rfl
@[simp] theorem Trx.finish_lastProgress (t : Trx) (r : Res) : (t.finish r).lastProgress = t.lastProgress := rfl
@[simp] theorem Trx.finish_lastProgressTime (t : Trx) (r : Res) : (t.finish r).lastProgressTime = t.lastProgressTime := rfl
@[simp] theorem Trx.finish_dir (t : Trx) (r : Res) : (t.finish r).dir = t.dir := rfl
@[simp] theorem Trx.finish_txseq (t : Trx) (r : Res) : (t.finish r).txseq = t.txseq := rfl
@[simp] theorem Trx.finish_txPos (t : Trx) (r : Res) : (t.finish r).txPos = t.txPos := rfl
@[simp] theorem Trx.finish_txArmed (t : Trx) (r : Res) : (t.finish r).txArmed = t.txArmed := rfl
@[simp] theorem Trx.finish_rxPrepared (t : Trx) (r : Res) : (t.finish r).rxPrepared = t.rxPrepared := rfl
@[simp] theorem Trx.finish_rxArmed (t : Trx) (r : Res) : (t.finish r).rxArmed = t.rxArmed := rfl
@[simp] theorem Trx.finish_rxCount (t : Trx) (r : Res) : (t.finish r).rxCount = t.rxCount := rfl
@[simp] theorem Trx.finish_rxFifo (t : Trx) (r : Res) : (t.finish r).rxFifo = t.rxFifo := rfl
@[simp] theorem Trx.finish_rxbuf (t : Trx) (r : Res) : (t.finish r).rxbuf = t.rxbuf := rfl
@[simp] theorem Trx.finish_poll (t : Trx) (r : Res) : (t.finish r).poll = none := rfl
@[simp] theorem Trx.finish_wireOut (t : Trx) (r : Res) : (t.finish r).wireOut = t.wireOut := rfl
@[simp] theorem Trx.finish_res (t : Trx) (r : Res) : (t.finish r).res = r := rfl

@[simp] theorem Trx.reportFailure_state (t : Trx) (ph : TState) (fr : FailureReason) : (t.reportFailure ph fr).state = .idle := rfl
@[simp] theorem Trx.reportFailure_deadline (t : Trx) (ph : TState) (fr : FailureReason) : (t.reportFailure ph fr).deadline = t.deadline := rfl
@[simp] theorem Trx.reportFailure_respExpected (t : Trx) (ph : TState) (fr : FailureReason) : (t.reportFailure ph fr).respExpected = t.respExpected := rfl
@[simp] theorem Trx.reportFailure_readTimeout (t : Trx) (ph : TState) (fr : FailureReason) : (t.reportFailure ph fr).readTimeout = t.readTimeout := rfl
@[simp] theorem Trx.reportFailure_lastProgress (t : Trx) (ph : TState) (fr : FailureReason) : (t.reportFailure ph fr).lastProgress = t.lastProgress := rfl
@[simp] theorem Trx.reportFailure_lastProgressTime (t : Trx) (ph : TState) (fr : FailureReason) : (t.reportFailure ph fr).lastProgressTime = t.lastProgressTime := rfl
@[simp] theorem Trx.reportFailure_dir (t : Trx) (ph : TState) (fr : FailureReason) : (t.reportFailure ph fr).dir = t.dir := rfl
@[simp] theorem Trx.reportFailure_txseq (t : Trx) (ph : TState) (fr : FailureReason) : (t.reportFailure ph fr).txseq = t.txseq := rfl
@[simp] theorem Trx.reportFailure_txPos (t : Trx) (ph : TState) (fr : FailureReason) : (t.reportFailure ph fr).txPos = t.txPos := rfl
@[simp] theorem Trx.reportFailure_txArmed (t : Trx) (ph : TState) (fr : FailureReason) : (t.reportFailure ph fr).txArmed = t.txArmed := rfl
@[simp] theorem Trx.reportFailure_rxPrepared (t : Trx) (ph : TState) (fr : FailureReason) : (t.reportFailure ph fr).rxPrepared = t.rxPrepared := rfl
@[simp] theorem Trx.reportFailure_rxArmed (t : Trx) (ph : TState) (fr : FailureReason) : (t.reportFailure ph fr).rxArmed = t.rxArmed := rfl
@[simp] theorem Trx.reportFailure_rxCount (t : Trx) (ph : TState) (fr : FailureReason) : (t.reportFailure ph fr).rxCount = t.rxCount := rfl
@[simp] theorem Trx.reportFailure_rxFifo (t : Trx) (ph : TState) (fr : FailureReason) : (t.reportFailure ph fr).rxFifo = t.rxFifo := rfl
@[simp] theorem Trx.reportFailure_rxbuf (t : Trx) (ph : TState) (fr : FailureReason) : (t.reportFailure ph fr).rxbuf = t.rxbuf := rfl
@[simp] theorem Trx.reportFailure_poll (t : Trx) (ph : TState) (fr : FailureReason) : (t.reportFailure ph fr).poll = none := rfl
@[simp] theorem Trx.reportFailure_wireOut (t : Trx) (ph : TState) (fr : FailureReason) : (t.reportFailure ph fr).wireOut = t.wireOut := rfl
@[simp] theorem Trx.reportFailure_res (t : Trx) (ph : TState) (fr : FailureReason) : (t.reportFailure ph fr).res = ⟨ph, [], 0, fr⟩ := rfl

@[simp] theorem Trx.reportPhase_state (t : Trx) (sn : TState) : (t.reportPhase sn).state = t.state := rfl
@[simp] theorem Trx.reportPhase_deadline (t : Trx) (sn : TState) : (t.reportPhase sn).deadline = t.deadline := rfl
@[simp] theorem Trx.reportPhase_respExpected (t : Trx) (sn : TState) : (t.reportPhase sn).respExpected = t.respExpected := rfl
@[simp] theorem Trx.reportPhase_readTimeout (t : Trx) (sn : TState) : (t.reportPhase sn).readTimeout = t.readTimeout := rfl
@[simp] theorem Trx.reportPhase_lastProgress (t : Trx) (sn : TState) : (t.reportPhase sn).lastProgress = t.lastProgress := rfl
@[simp] theorem Trx.reportPhase_lastProgressTime (t : Trx) (sn : TState) : (t.reportPhase sn).lastProgressTime = t.lastProgressTime := rfl
@[simp] theorem Trx.reportPhase_dir (t : Trx) (sn : TState) : (t.reportPhase sn).dir = t.dir := rfl
@[simp] theorem Trx.reportPhase_txseq (t : Trx) (sn : TState) : (t.reportPhase sn).txseq = t.txseq := rfl
@[simp] theorem Trx.reportPhase_txPos (t : Trx) (sn : TState) : (t.reportPhase sn).txPos = t.txPos := rfl
@[simp] theorem Trx.reportPhase_txArmed (t : Trx) (sn : TState) : (t.reportPhase sn).txArmed = t.txArmed := rfl
@[simp] theorem Trx.reportPhase_rxPrepared (t : Trx) (sn : TState) : (t.reportPhase sn).rxPrepared = t.rxPrepared := rfl
@[simp] theorem Trx.reportPhase_rxArmed (t : Trx) (sn : TState) : (t.reportPhase sn).rxArmed = t.rxArmed := rfl
@[simp] theorem Trx.reportPhase_rxCount (t : Trx) (sn : TState) : (t.reportPhase sn).rxCount = t.rxCount := rfl
@[simp] theorem Trx.reportPhase_rxFifo (t : Trx) (sn : TState) : (t.reportPhase sn).rxFifo = t.rxFifo := rfl
@[simp] theorem Trx.reportPhase_rxbuf (t : Trx) (sn : TState) : (t.reportPhase sn).rxbuf = t.rxbuf := rfl
@[simp] theorem Trx.reportPhase_poll (t : Trx) (sn : TState) : (t.reportPhase sn).poll = none := rfl
@[simp] theorem Trx.reportPhase_wireOut (t : Trx) (sn : TState) : (t.reportPhase sn).wireOut = t.wireOut := rfl
@[simp] theorem Trx.reportPhase_res (t : Trx) (sn : TState) : (t.reportPhase sn).res = ⟨sn, [], 0, .none⟩ := rfl

@[simp] theorem Trx.acceptRead_state (c : Cfg) (now : Nat) (tm : Word64) (t : Trx) : (t.acceptRead c now tm).state = .waitingForReadStart := rfl
@[simp] theorem Trx.acceptRead_deadline (c : Cfg) (now : Nat) (tm : Word64) (t : Trx) : (t.acceptRead c now tm).deadline = deadlineFrom c now tm := rfl
@[simp] theorem Trx.acceptRead_respExpected (c : Cfg) (now : Nat) (tm : Word64) (t : Trx) : (t.acceptRead c now tm).respExpected = t.respExpected := rfl
@[simp] theorem Trx.acceptRead_readTimeout (c : Cfg) (now : Nat) (tm : Word64) (t : Trx) : (t.acceptRead c now tm).readTimeout = t.readTimeout := rfl
@[simp] theorem Trx.acceptRead_lastProgress (c : Cfg) (now : Nat) (tm : Word64) (t : Trx) : (t.acceptRead c now tm).lastProgress = t.lastProgress := rfl
@[simp] theorem Trx.acceptRead_lastProgressTime (c : Cfg) (now : Nat) (tm : Word64) (t : Trx) : (t.acceptRead c now tm).lastProgressTime = t.lastProgressTime := rfl
@[simp] theorem Trx.acceptRead_dir (c : Cfg) (now : Nat) (tm : Word64) (t : Trx) : (t.acceptRead c now tm).dir = .input := rfl
@[simp] theorem Trx.acceptRead_txseq (c : Cfg) (now : Nat) (tm : Word64) (t : Trx) : (t.acceptRead c now tm).txseq = t.txseq := rfl
@[simp] theorem Trx.acceptRead_txPos (c : Cfg) (now : Nat) (tm : Word64) (t : Trx) : (t.acceptRead c now tm).txPos = t.txPos := rfl
@[simp] theorem Trx.acceptRead_txArmed (c : Cfg) (now : Nat) (tm : Word64) (t : Trx) : (t.acceptRead c now tm).txArmed = t.txArmed := rfl
@[simp] theorem Trx.acceptRead_rxPrepared (c : Cfg) (now : Nat) (tm : Word64) (t : Trx) : (t.acceptRead c now tm).rxPrepared = false := rfl
@[simp] theorem Trx.acceptRead_rxArmed (c : Cfg) (now : Nat) (tm : Word64) (t : Trx) : (t.acceptRead c now tm).rxArmed = true := rfl
@[simp] theorem Trx.acceptRead_rxCount (c : Cfg) (now : Nat) (tm : Word64) (t : Trx) : (t.acceptRead c now tm).rxCount = 0 := rfl
@[simp] theorem Trx.acceptRead_rxFifo (c : Cfg) (now : Nat) (tm : Word64) (t : Trx) : (t.acceptRead c now tm).rxFifo = [] := rfl
@[simp] theorem Trx.acceptRead_rxbuf (c : Cfg) (now : Nat) (tm : Word64) (t : Trx) : (t.acceptRead c now tm).rxbuf = [] := rfl
@[simp] theorem Trx.acceptRead_poll (c : Cfg) (now : Nat) (tm : Word64) (t : Trx) : (t.acceptRead c now tm).poll = t.poll := rfl
@[simp] theorem Trx.acceptRead_wireOut (c : Cfg) (now : Nat) (tm : Word64) (t : Trx) : (t.acceptRead c now tm).wireOut = t.wireOut := rfl
@[simp] theorem Trx.acceptRead_res (c : Cfg) (now : Nat) (tm : Word64) (t : Trx) : (t.acceptRead c now tm).res = t.res := rfl

end Sys2Proof.Machine
end

