-- ==== Sys2Proof/Laws/Ops.lean ====
section
/-! SUPPORT. One lemma for each shared operation that says once what it can do, for the proofs to cite instead of
unfolding it, and the lemmas that the memory operations keep the canonical form of the stores. -/

namespace Sys2Proof.Machine

/-! ### Instances -/

@[simp] theorem onTrx_some {s : State} {k : Nat} {t : Trx} (h : s.trx[k]? = some t) (f : Trx → Out) :
    onTrx s k f = f t := by simp [onTrx, h]

@[simp] theorem onTrx_none {s : State} {k : Nat} (h : s.trx[k]? = none) (f : Trx → Out) :
    onTrx s k f = .refused .noSuchTransceiver := by simp [onTrx, h]

/-- An operation on a transceiver that answers a next state found the instance. -/
theorem onTrx_next {s u : State} {k : Nat} {f : Trx → Out} (h : onTrx s k f = .next u) :
    ∃ t, s.trx[k]? = some t ∧ f t = .next u := by
  unfold onTrx at h
  split at h
  · exact ⟨_, ‹_›, h⟩
  · cases h

@[simp] theorem onEndpoint_some {s : State} {e : Nat} {p : Byte} (h : s.endpoints[e]? = some p) (f : Byte → Out) :
    onEndpoint s e f = f p := by simp [onEndpoint, h]

@[simp] theorem onEndpoint_none {s : State} {e : Nat} (h : s.endpoints[e]? = none) (f : Byte → Out) :
    onEndpoint s e f = .refused .noSuchEndpoint := by simp [onEndpoint, h]

/-- An endpoint command that answers a next state found the endpoint. -/
theorem onEndpoint_next {s u : State} {e : Nat} {f : Byte → Out} (h : onEndpoint s e f = .next u) :
    ∃ p, s.endpoints[e]? = some p ∧ f p = .next u := by
  unfold onEndpoint at h
  split at h
  · exact ⟨_, ‹_›, h⟩
  · cases h

/-- Writing back the instance that stands there changes nothing. -/
theorem State.setTrx_self {s : State} {k : Nat} {t : Trx} (h : s.trx[k]? = some t) : s.setTrx k t = s := by
  obtain ⟨hk, rfl⟩ := List.getElem?_eq_some_iff.1 h
  simp [State.setTrx]

/-! ### Bits on the bus -/

/-- The number the bits of `v`, least significant first, stand for. -/
theorem natOfBits_ofFn : ∀ {n : Nat} (v : BitVec n), natOfBits (List.ofFn fun i : Fin n => v.getLsbD i) = v.toNat := by
  intro n
  induction n with
  | zero => intro v; simp [natOfBits, BitVec.of_length_zero]
  | succ n ih =>
    intro v
    have h := ih (v.extractLsb' 1 n)
    rw [List.ofFn_succ]
    simp only [natOfBits]
    have e : (List.ofFn fun i : Fin n => v.getLsbD i.succ) = List.ofFn fun i : Fin n => (v.extractLsb' 1 n).getLsbD i := by
      congr 1
      funext i
      simp [Nat.add_comm]
    rw [e, h]
    simp only [BitVec.extractLsb'_toNat, Nat.shiftRight_eq_div_pow, Fin.val_zero]
    have hv := v.isLt
    rw [Nat.mod_eq_of_lt (by rw [Nat.div_lt_iff_lt_mul (by decide)]; rw [Nat.pow_succ] at hv; simpa using hv)]
    have : (v.getLsbD 0).toNat = v.toNat % 2 := by
      rw [BitVec.getLsbD, Nat.testBit_zero]
      rcases Nat.mod_two_eq_zero_or_one v.toNat with h | h <;> simp [h]
    omega

/-- What is taken off the bus is what the remote party sent, zero-extended, in either order of the bits (R67, R68). -/
theorem offBus_toNat (c : Cfg) {n : Nat} (v : BitVec n) : (offBus c v).toNat = v.toNat % 2 ^ 32 := by
  unfold offBus reassemble serialize
  split <;> simp only [List.reverse_reverse, natOfBits_ofFn, BitVec.toNat_ofNat]

theorem offBus_word (c : Cfg) (w : Word32) : offBus c w = w :=
  BitVec.eq_of_toNat_eq (by rw [offBus_toNat]; omega)

theorem offBus_byte (c : Cfg) (b : Byte) : offBus c b = checksumToWord b :=
  BitVec.eq_of_toNat_eq (by rw [offBus_toNat, checksumToWord, BitVec.toNat_setWidth])

/-- Everything the tail of a frame can do (R68, R270): not armed, nothing; armed, one word joins the queue, `zext_32` of the
byte where no stray bit stands beside it, and otherwise some word, whose draw is counted. -/
theorem State.captureTail_spec (s : State) {k : Nat} {t : Trx} (h : s.trx[k]? = some t) (tail : Tail) :
    (t.rxArmed = false ∧ s.captureTail k t tail = s) ∨
    (t.rxArmed = true ∧ ∃ w n, s.captureTail k t tail =
      { s.setTrx k { t with rxFifo := t.rxFifo ++ [w] } with draws := n } ∧
      (tail.isByte = true → w = checksumToWord tail.checksum ∧ n = s.draws) ∧ (tail.isByte = false → n = s.draws + 1)) := by
  unfold State.captureTail Trx.capture Trx.captureEnabled
  cases ha : t.rxArmed
  · refine .inl ⟨rfl, ?_⟩
    split
    · exact State.setTrx_self h
    · rfl
  · refine .inr ⟨rfl, ?_⟩
    cases tail.isByte
    · exact ⟨Config.strayTail s.draws, s.draws + 1, rfl, fun h => (by cases h), fun _ => rfl⟩
    · exact ⟨checksumToWord tail.checksum, s.draws, by rw [offBus_byte]; rfl, fun _ => ⟨rfl, rfl⟩, fun h => (by cases h)⟩

/-! ### Arithmetic -/

/-- `ceilDiv` is the least integer not below the quotient (R11). -/
theorem ceilDiv_spec (a : Nat) {b : Nat} (hb : 0 < b) : a ≤ b * ceilDiv a b ∧ b * ceilDiv a b < a + b := by
  unfold ceilDiv
  have h1 := Nat.div_add_mod (a + (b - 1)) b
  have h2 := Nat.mod_lt (a + (b - 1)) hb
  omega

/-- The cadence function answers the one congruent time in a window of one period (R168). -/
theorem nextCadenceTime_spec (now offset : Nat) {period : Nat} (hp : 0 < period) :
    now ≤ nextCadenceTime now period offset ∧ nextCadenceTime now period offset < now + period ∧
      nextCadenceTime now period offset % period = offset % period := by
  unfold nextCadenceTime
  have h1 := Nat.mod_lt now hp
  have h2 := Nat.mod_lt offset hp
  have h3 := Nat.mod_lt (offset % period + period - now % period) hp
  refine ⟨by omega, by omega, ?_⟩
  rw [Nat.add_mod, Nat.mod_mod, ← Nat.add_mod]
  have h4 := Nat.div_add_mod now period
  have h5 : now + (offset % period + period - now % period) = offset % period + period * (now / period + 1) := by
    rw [Nat.mul_add]; omega
  rw [h5, Nat.add_mul_mod_self_left, Nat.mod_mod]

/-- A count below 2^32 is exact (R240). -/
theorem countResult_toNat {n : Nat} (h : n < 2 ^ 32) : (countResult n).toNat = n := by
  rw [countResult, if_pos h, BitVec.toNat_ofNat]
  exact Nat.mod_eq_of_lt h

/-! ### The schedule -/

/-- In a sorted list the entries that are not later than `x` are the first ones. -/
theorem take_countP_of_sorted (x : Nat) : ∀ {l : List Transmission}, bucketSorted l →
    (∀ e ∈ l.take (l.countP fun e => decide (e.txTime ≤ x)), e.txTime ≤ x) ∧
      ∀ e ∈ l.drop (l.countP fun e => decide (e.txTime ≤ x)), x < e.txTime
  | [], _ => by simp
  | a :: l, h => by
    obtain ⟨ha, hl⟩ := List.pairwise_cons.1 h
    obtain ⟨h1, h2⟩ := take_countP_of_sorted x hl
    by_cases hx : a.txTime ≤ x
    · simp only [List.countP_cons, hx, decide_true, if_true, List.take_succ_cons, List.drop_succ_cons, List.mem_cons,
        forall_eq_or_imp, true_and]
      exact ⟨h1, h2⟩
    · have hz : l.countP (fun e => decide (e.txTime ≤ x)) = 0 := by
        rw [List.countP_eq_zero]
        intro e he
        have := ha e he
        simp; omega
      simp only [List.countP_cons, hx, decide_false, hz, Nat.zero_add]
      refine ⟨by simp, ?_⟩
      simp only [Bool.false_eq_true, if_false, List.drop_zero, List.mem_cons, forall_eq_or_imp]
      exact ⟨by omega, fun e he => by have := ha e he; omega⟩

/-- Ordered insertion into a sorted bucket (R151): the new entry stands after every entry that is not later, before every
entry that is. -/
theorem orderedInsert_spec {l : List Transmission} (h : bucketSorted l) (t : Transmission) :
    ∃ before after, l = before ++ after ∧ orderedInsert l t = before ++ t :: after ∧
      (∀ e ∈ before, e.txTime ≤ t.txTime) ∧ ∀ e ∈ after, t.txTime < e.txTime :=
  ⟨_, _, (List.take_append_drop _ l).symm, rfl, take_countP_of_sorted t.txTime h⟩

/-- Ordered insertion keeps a bucket sorted. -/
theorem orderedInsert_sorted {l : List Transmission} (h : bucketSorted l) (t : Transmission) :
    bucketSorted (orderedInsert l t) := by
  obtain ⟨a, b, rfl, hi, ha, hb⟩ := orderedInsert_spec h t
  obtain ⟨h1, h2, h3⟩ := List.pairwise_append.1 h
  rw [hi]
  refine List.pairwise_append.2 ⟨h1, List.pairwise_cons.2 ⟨fun e he => (hb e he).le, h2⟩, ?_⟩
  intro x hx y hy
  rcases List.mem_cons.1 hy with rfl | hy
  · exact ha x hx
  · exact h3 x hx y hy

@[simp] theorem mem_orderedInsert {l : List Transmission} {t e : Transmission} :
    e ∈ orderedInsert l t ↔ e = t ∨ e ∈ l := by
  unfold orderedInsert
  generalize l.countP _ = n
  conv_rhs => rw [← List.take_append_drop n l]
  simp only [List.mem_append, List.mem_cons]
  tauto

@[simp] theorem length_orderedInsert (l : List Transmission) (t : Transmission) :
    (orderedInsert l t).length = l.length + 1 := by
  unfold orderedInsert
  generalize l.countP _ = n
  simp only [List.length_append, List.length_cons, List.length_take, List.length_drop]
  omega

/-- The copy of an auto-repeat (R157): the popped entry with a time of its cadence that is later than its own and not
before `now`, where its end time allows it. -/
theorem nextOccurrence_spec {now : Nat} {h c : Transmission} (hc : nextOccurrence now h = some c) :
    0 < h.autoRepeatPeriodUs.toNat ∧ c = { h with txTime := c.txTime } ∧ h.txTime < c.txTime ∧ now ≤ c.txTime ∧
      c.txTime % h.autoRepeatPeriodUs.toNat = h.txTime % h.autoRepeatPeriodUs.toNat := by
  unfold nextOccurrence at hc
  split at hc
  · cases hc
  · have hp : 0 < h.autoRepeatPeriodUs.toNat := by omega
    obtain ⟨h1, _, h3⟩ := nextCadenceTime_spec (max now (h.txTime + 1)) h.txTime hp
    dsimp only at hc
    split at hc
    · cases hc
      exact ⟨hp, rfl, by dsimp only; omega, by dsimp only; omega, h3⟩
    · cases hc

/-- The bucket a pop leaves holds what its tail held and at most the copy, in order (R156, R157). -/
theorem bucketAfterPop_spec (now : Nat) (h : Transmission) {tl : List Transmission} (hs : bucketSorted tl) :
    bucketSorted (bucketAfterPop now h tl) ∧ (bucketAfterPop now h tl).length ≤ tl.length + 1 ∧
      ∀ e ∈ bucketAfterPop now h tl, e ∈ tl ∨ e.priority = h.priority := by
  unfold bucketAfterPop
  split
  · exact ⟨hs, by omega, fun e he => .inl he⟩
  · rename_i c hc
    refine ⟨orderedInsert_sorted hs c, by simp, ?_⟩
    intro e he
    rcases mem_orderedInsert.1 he with rfl | he
    · right; rw [(nextOccurrence_spec hc).2.1]
    · exact .inl he

/-- The scan finds nothing exactly when no head is due (R156). -/
theorem popScan_none_iff (now : Nat) : ∀ {sched : List (List Transmission)},
    popScan now sched = none ↔ ∀ (p : Nat) h tl, sched[p]? = some (h :: tl) → now < h.txTime
  | [] => by simp [popScan]
  | [] :: rest => by
    rw [popScan, Option.map_eq_none_iff, popScan_none_iff now]
    constructor
    · intro H p h tl hp
      cases p with
      | zero => simp at hp
      | succ p => exact H p h tl (by simpa using hp)
    · intro H p h tl hp
      exact H (p + 1) h tl (by simpa using hp)
  | (a :: l) :: rest => by
    rw [popScan]
    split
    · rename_i hle
      simp only [reduceCtorEq, false_iff, not_forall]
      exact ⟨0, a, l, by simp, by omega⟩
    · rename_i hle
      rw [Option.map_eq_none_iff, popScan_none_iff now]
      constructor
      · intro H p h tl hp
        cases p with
        | zero =>
          simp only [List.getElem?_cons_zero, Option.some.injEq, List.cons.injEq] at hp
          obtain ⟨rfl, _⟩ := hp
          omega
        | succ p => exact H p h tl (by simpa using hp)
      · intro H p h tl hp
        exact H (p + 1) h tl (by simpa using hp)

/-- What the scan finds (R156): the head of the first bucket whose head is due, removed, with the copy it leaves. -/
theorem popScan_some {now : Nat} : ∀ {sched r : List (List Transmission)} {h : Transmission},
    popScan now sched = some (h, r) → ∃ (p : Nat) (tl : List Transmission), sched[p]? = some (h :: tl) ∧ h.txTime ≤ now ∧
      (∀ (q : Nat) h' tl', q < p → sched[q]? = some (h' :: tl') → now < h'.txTime) ∧
      r = sched.set p (bucketAfterPop now h tl)
  | [], _, _, H => by simp [popScan] at H
  | [] :: rest, r, h, H => by
    rw [popScan, Option.map_eq_some_iff] at H
    obtain ⟨⟨h0, r0⟩, H, he⟩ := H
    cases he
    obtain ⟨p, tl, h1, h2, h3, h4⟩ := popScan_some H
    refine ⟨p + 1, tl, by simpa using h1, h2, ?_, by simp [h4]⟩
    intro q h' tl' hq hq'
    cases q with
    | zero => simp at hq'
    | succ q => exact h3 q h' tl' (by omega) (by simpa using hq')
  | (a :: l) :: rest, r, h, H => by
    rw [popScan] at H
    split at H
    · rename_i hle
      cases H
      exact ⟨0, l, by simp, hle, by omega, by simp⟩
    · rename_i hle
      rw [Option.map_eq_some_iff] at H
      obtain ⟨⟨h0, r0⟩, H, he⟩ := H
      cases he
      obtain ⟨p, tl, h1, h2, h3, h4⟩ := popScan_some H
      refine ⟨p + 1, tl, by simpa using h1, h2, ?_, by simp [h4]⟩
      intro q h' tl' hq hq'
      cases q with
      | zero =>
        simp only [List.getElem?_cons_zero, Option.some.injEq, List.cons.injEq] at hq'
        obtain ⟨rfl, _⟩ := hq'
        omega
      | succ q => exact h3 q h' tl' (by omega) (by simpa using hq')

/-- The scan takes the head of the bucket that is the first whose head is due (R156). -/
theorem popScan_of_first_due {now : Nat} {sched : List (List Transmission)} {p : Nat} {h : Transmission}
    {tl : List Transmission} (hp : sched[p]? = some (h :: tl)) (hd : h.txTime ≤ now)
    (hn : ∀ (q : Nat) h' tl', q < p → sched[q]? = some (h' :: tl') → now < h'.txTime) :
    popScan now sched = some (h, sched.set p (bucketAfterPop now h tl)) := by
  cases e : popScan now sched with
  | none => have := (popScan_none_iff now).1 e p h tl hp; omega
  | some r =>
    obtain ⟨h', r⟩ := r
    obtain ⟨p', tl', k1, k2, k3, k4⟩ := popScan_some e
    rcases Nat.lt_trichotomy p p' with hlt | rfl | hlt
    · have := k3 p h tl hlt hp; omega
    · rw [hp] at k1; cases k1; rw [k4]
    · have := hn p' h' tl' hlt k1; omega

/-- `ADD` answers a next state exactly when the priority exists and the schedule has room, and then this one (R152). -/
theorem schedAdd_next {s u : State} {pr : Byte} {r : SendRequest} (h : schedAdd s pr r = .next u) :
    pr ≤ s.cfg.maxPriority ∧ schedFull s.cfg s.sched = false ∧
      u = { s with
        nextId := s.nextId + 1
        sched := s.sched.modify pr.toNat fun b => orderedInsert b (transmissionOf s.nextId pr r) }.answer (.u32 s.nextId) := by
  unfold schedAdd at h
  split at h
  · cases h
  · split at h
    · cases h
    · cases h
      exact ⟨BitVec.not_lt.1 ‹_›, Bool.eq_false_iff.2 ‹_›, rfl⟩

/-- The schedule is not full exactly when its capacity, if it has one, is above the number of entries (R152, R154). -/
theorem schedFull_eq_false {c : Cfg} {sched : List (List Transmission)} :
    schedFull c sched = false ↔ ∀ cap, c.schedCapacity = some cap → schedTotal sched < cap := by
  unfold schedFull
  split <;> simp_all

/-- Removal does not add entries. -/
theorem schedTotal_remove_le (q : Transmission → Bool) : ∀ sched : List (List Transmission),
    schedTotal (schedRemove q sched) ≤ schedTotal sched
  | [] => by simp [schedRemove, schedTotal]
  | b :: rest => by
    have ih := schedTotal_remove_le q rest
    have hb := List.length_filter_le (fun e => !q e) b
    simp only [schedTotal, schedRemove, List.map_cons, List.sum_cons] at *
    omega

/-- Replacing one bucket changes the number of entries by the difference of the two. -/
theorem schedTotal_set : ∀ {sched : List (List Transmission)} {p : Nat} {b : List Transmission},
    sched[p]? = some b → ∀ b', schedTotal (sched.set p b') + b.length = schedTotal sched + b'.length
  | [], _, _, h => by simp at h
  | a :: rest, 0, b, h => by
    intro b'
    simp only [List.getElem?_cons_zero, Option.some.injEq] at h
    subst h
    simp only [schedTotal, List.set_cons_zero, List.map_cons, List.sum_cons]
    omega
  | a :: rest, p + 1, b, h => by
    intro b'
    have ih := schedTotal_set (p := p) (b := b) (sched := rest) (by simpa using h) b'
    simp only [schedTotal, List.set_cons_succ, List.map_cons, List.sum_cons] at *
    omega

/-- The form of a schedule, bucket by bucket (R24, R61). -/
theorem schedWf_iff {c : Cfg} {sched : List (List Transmission)} : schedWf c sched ↔
    sched.length = c.maxPriority.toNat + 1 ∧
      (∀ (p : Nat) b, sched[p]? = some b → bucketSorted b ∧ ∀ e ∈ b, e.priority.toNat = p) ∧
      ∀ cap, c.schedCapacity = some cap → schedTotal sched ≤ cap := by
  constructor
  · rintro ⟨h1, h2, h3, h4⟩
    refine ⟨h1, fun p b hp => ?_, fun cap hc => h4 cap hc⟩
    obtain ⟨hlt, rfl⟩ := List.getElem?_eq_some_iff.1 hp
    exact ⟨h2 _ (List.getElem_mem hlt), h3 ⟨p, hlt⟩⟩
  · rintro ⟨h1, h2, h4⟩
    refine ⟨h1, fun b hb => ?_, fun p => (h2 p _ (List.getElem?_eq_getElem p.2)).2, fun cap hc => h4 cap hc⟩
    obtain ⟨p, hp, rfl⟩ := List.getElem_of_mem hb
    exact (h2 p _ (List.getElem?_eq_getElem hp)).1

/-- Replacing one bucket by one in form, with room for it, keeps the form of the schedule. -/
theorem schedWf_set {c : Cfg} {sched : List (List Transmission)} (h : schedWf c sched) {p : Nat} {b' : List Transmission}
    (hs : bucketSorted b') (hp : ∀ e ∈ b', e.priority.toNat = p)
    (hroom : ∀ cap, c.schedCapacity = some cap → schedTotal (sched.set p b') ≤ cap) : schedWf c (sched.set p b') := by
  obtain ⟨h1, h2, _⟩ := schedWf_iff.1 h
  refine schedWf_iff.2 ⟨by simpa using h1, fun q b hq => ?_, hroom⟩
  rw [List.getElem?_set] at hq
  split at hq
  · subst q
    split at hq
    · cases hq; exact ⟨hs, hp⟩
    · cases hq
  · exact h2 q b hq

/-! ### Memory operations keep the form of the schedule -/

/-- `ADD` keeps the form of the schedule (R170 (d)). -/
theorem schedWf_add {s u : State} {pr : Byte} {r : SendRequest} (hw : schedWf s.cfg s.sched)
    (h : schedAdd s pr r = .next u) : schedWf s.cfg u.sched := by
  obtain ⟨hle, hfull, rfl⟩ := schedAdd_next h
  obtain ⟨h1, h2, _⟩ := schedWf_iff.1 hw
  have hlt : pr.toNat < s.sched.length := by
    rw [h1]; have := BitVec.le_def.1 hle; omega
  have hb := List.getElem?_eq_getElem hlt
  have hm : s.sched.modify pr.toNat (fun b => orderedInsert b (transmissionOf s.nextId pr r)) =
      s.sched.set pr.toNat (orderedInsert s.sched[pr.toNat] (transmissionOf s.nextId pr r)) := by
    rw [List.modify_eq_set_getElem?, hb]; rfl
  simp only [State.answer_sched, hm]
  obtain ⟨hs, hp⟩ := h2 _ _ hb
  refine schedWf_set hw (orderedInsert_sorted hs _) ?_ ?_
  · intro e he
    rcases mem_orderedInsert.1 he with rfl | he
    · rfl
    · exact hp e he
  · intro cap hc
    have h4 := schedFull_eq_false.1 hfull cap hc
    have h5 := schedTotal_set hb (orderedInsert s.sched[pr.toNat] (transmissionOf s.nextId pr r))
    rw [length_orderedInsert] at h5
    omega

/-- `POPNEXT` keeps the form of the schedule (R170 (d)). -/
theorem schedWf_pop {c : Cfg} {now : Nat} {sched r : List (List Transmission)} {h : Transmission} (hw : schedWf c sched)
    (H : popScan now sched = some (h, r)) : schedWf c r := by
  obtain ⟨p, tl, hp, _, _, rfl⟩ := popScan_some H
  obtain ⟨_, h2, h3⟩ := schedWf_iff.1 hw
  obtain ⟨hs, hpr⟩ := h2 p _ hp
  obtain ⟨b1, b2, b3⟩ := bucketAfterPop_spec now h (List.pairwise_cons.1 hs).2
  refine schedWf_set hw b1 ?_ ?_
  · intro e he
    rcases b3 e he with he | he
    · exact hpr e (List.mem_cons_of_mem _ he)
    · rw [he]; exact hpr h (List.mem_cons_self ..)
  · intro cap hc
    have h4 := schedTotal_set hp (bucketAfterPop now h tl)
    have h5 := h3 cap hc
    simp only [List.length_cons] at h4
    omega

/-- The cancel commands keep the form of the schedule (R160, R170 (d)). -/
theorem schedWf_remove {c : Cfg} {sched : List (List Transmission)} (hw : schedWf c sched) (q : Transmission → Bool) :
    schedWf c (schedRemove q sched) := by
  obtain ⟨h1, h2, h3⟩ := schedWf_iff.1 hw
  refine schedWf_iff.2 ⟨by simpa [schedRemove] using h1, fun p b hp => ?_, fun cap hc =>
    (schedTotal_remove_le q sched).trans (h3 cap hc)⟩
  simp only [schedRemove, List.getElem?_map, Option.map_eq_some_iff] at hp
  obtain ⟨b0, hb0, rfl⟩ := hp
  obtain ⟨hs, hpr⟩ := h2 p b0 hb0
  exact ⟨List.Pairwise.filter _ hs, fun e he => hpr e (List.mem_of_mem_filter he)⟩

/-! ### The stores of a transceiver -/

/-- A word written below or at the end of the buffer is read back. -/
theorem rxWrite_getElem? {buf : List Word32} {i : Nat} (h : i ≤ buf.length) (w : Word32) :
    (rxWrite buf i w)[i]? = some w := by
  unfold rxWrite
  rw [List.getElem?_append_right (by simp)]
  simp [Nat.min_eq_left h]

/-- The words below the one written keep their values. -/
theorem rxWrite_getElem?_lt {buf : List Word32} {i j : Nat} (hj : j < i) (h : i ≤ buf.length) (w : Word32) :
    (rxWrite buf i w)[j]? = buf[j]? := by
  unfold rxWrite
  rw [List.getElem?_append_left (by simp; omega)]
  simp [hj]

/-- A write at the end appends, which is the only write of the block (R63). -/
theorem rxWrite_length (buf : List Word32) (w : Word32) : rxWrite buf buf.length w = buf ++ [w] := by
  simp [rxWrite]

/-- One transfer moves the first queued word to the end of the buffer where there is room (R272). -/
theorem Trx.transfer_cons {c : Cfg} {t : Trx} {w : Word32} {rest : List Word32} (hf : t.rxFifo = w :: rest)
    (hb : t.rxbuf.length = t.rxCount) (hr : t.rxCount < c.rxBufferWords) :
    t.transfer c = { t with rxbuf := t.rxbuf ++ [w], rxCount := t.rxCount + 1, rxFifo := rest } := by
  have hw := rxWrite_length t.rxbuf w
  rw [hb] at hw
  simp only [Trx.transfer, hf, hr, if_true, hw]

/-- With the queue empty or the buffer full a transfer changes nothing (R64, R272). -/
theorem Trx.transfer_disabled {c : Cfg} {t : Trx} (h : t.rxFifo = [] ∨ c.rxBufferWords ≤ t.rxCount) :
    t.transfer c = t := by
  unfold Trx.transfer
  split
  · rfl
  · rcases h with h | h
    · simp_all
    · rw [if_neg (by omega)]

/-- A transfer keeps the form of the stores. -/
theorem Trx.storesWf_transfer {c : Cfg} {t : Trx} (h : t.storesWf c) : (t.transfer c).storesWf c := by
  obtain ⟨h1, h2, h3⟩ := h
  cases hf : t.rxFifo with
  | nil => rw [Trx.transfer_disabled (.inl hf)]; exact ⟨h1, h2, h3⟩
  | cons w rest =>
    by_cases hr : t.rxCount < c.rxBufferWords
    · rw [Trx.transfer_cons hf h1 hr]
      exact ⟨by simp [h1], hr, h3⟩
    · rw [Trx.transfer_disabled (.inr (by omega))]; exact ⟨h1, h2, h3⟩

/-- `n` transfers move the first words of the queue, as many as there are, fit and are asked for. -/
theorem Trx.transfers_spec {c : Cfg} : ∀ (n : Nat) {t : Trx}, t.rxbuf.length = t.rxCount →
    t.rxCount ≤ c.rxBufferWords → Trx.transfers c n t = { t with
      rxbuf := t.rxbuf ++ t.rxFifo.take (min n (c.rxBufferWords - t.rxCount))
      rxCount := (t.rxbuf ++ t.rxFifo.take (min n (c.rxBufferWords - t.rxCount))).length
      rxFifo := t.rxFifo.drop (min n (c.rxBufferWords - t.rxCount)) }
  | 0, t, hb, _ => by cases t; simp_all [Trx.transfers]
  | n + 1, t, hb, hr => by
    rw [Trx.transfers]
    cases hf : t.rxFifo with
    | nil =>
      rw [Trx.transfer_disabled (.inl hf), Trx.transfers_spec n hb hr, hf]
      simp
    | cons w rest =>
      by_cases hlt : t.rxCount < c.rxBufferWords
      · rw [Trx.transfer_cons hf hb hlt, Trx.transfers_spec n (t := { t with rxbuf := t.rxbuf ++ [w], rxCount := t.rxCount + 1, rxFifo := rest })
          (by simp [hb]) (Nat.succ_le_of_lt hlt)]
        have hm : min (n + 1) (c.rxBufferWords - t.rxCount) = min n (c.rxBufferWords - (t.rxCount + 1)) + 1 := by omega
        simp only [hm, List.take_succ_cons, List.drop_succ_cons, List.append_assoc, List.cons_append, List.nil_append]
      · have hz : c.rxBufferWords - t.rxCount = 0 := by omega
        rw [Trx.transfer_disabled (.inr (by omega)), Trx.transfers_spec n hb hr, hf]
        simp [hz]

/-- The drain moves every residual word that fits (R224). -/
theorem Trx.drain_spec {c : Cfg} {t : Trx} (hb : t.rxbuf.length = t.rxCount) (hr : t.rxCount ≤ c.rxBufferWords) :
    t.drain c = { t with
      rxbuf := t.rxbuf ++ t.rxFifo.take (c.rxBufferWords - t.rxCount)
      rxCount := (t.rxbuf ++ t.rxFifo.take (c.rxBufferWords - t.rxCount)).length
      rxFifo := t.rxFifo.drop (c.rxBufferWords - t.rxCount) } := by
  rw [Trx.drain, Trx.transfers_spec _ hb hr]
  have h1 : t.rxFifo.take (min t.rxFifo.length (c.rxBufferWords - t.rxCount)) =
      t.rxFifo.take (c.rxBufferWords - t.rxCount) := by rw [← List.take_take, List.take_of_length_le (by simp)]
  have h2 : t.rxFifo.drop (min t.rxFifo.length (c.rxBufferWords - t.rxCount)) =
      t.rxFifo.drop (c.rxBufferWords - t.rxCount) := by
    rcases Nat.le_total t.rxFifo.length (c.rxBufferWords - t.rxCount) with h | h
    · rw [Nat.min_eq_left h, List.drop_length, List.drop_eq_nil_of_le h]
    · rw [Nat.min_eq_right h]
  rw [h1, h2]

/-- The drain keeps the form of the stores and touches nothing but the receive stores. -/
theorem Trx.storesWf_drain {c : Cfg} {t : Trx} (h : t.storesWf c) : (t.drain c).storesWf c := by
  have : ∀ n (u : Trx), u.storesWf c → (Trx.transfers c n u).storesWf c := by
    intro n
    induction n with
    | zero => exact fun u hu => hu
    | succ n ih => exact fun u hu => ih _ (Trx.storesWf_transfer hu)
  exact this _ t h

/-- The shifter keeps the form of the stores (R268). -/
theorem Trx.storesWf_shift {c : Cfg} {t : Trx} (h : t.storesWf c) : t.shift.storesWf c := by
  obtain ⟨h1, h2, h3⟩ := h
  unfold Trx.shift
  split
  · split
    · rename_i item hi
      have hlt : t.txPos < t.txseq.length := by
        obtain ⟨hlt, _⟩ := List.getElem?_eq_some_iff.1 hi
        exact hlt
      exact ⟨h1, h2, hlt⟩
    · exact ⟨h1, h2, h3⟩
  · exact ⟨h1, h2, h3⟩

/-- Preparing and arming capture leave the receive stores empty, which is in form (R283, R284). -/
theorem Trx.storesWf_rxPrepare {c : Cfg} {t : Trx} (h : t.storesWf c) : t.rxPrepare.storesWf c :=
  ⟨rfl, Nat.zero_le _, h.2.2⟩

theorem Trx.storesWf_rxStart {c : Cfg} {t : Trx} (h : t.storesWf c) : t.rxStart.storesWf c :=
  ⟨rfl, Nat.zero_le _, h.2.2⟩

/-- Taking a word off the bus touches only the queue (R270). -/
theorem Trx.storesWf_capture {c : Cfg} {t : Trx} (h : t.storesWf c) (w : Word32) : (t.capture w).storesWf c := by
  unfold Trx.capture
  split <;> exact h

/-- An accepted `WRITE` builds a whole new sequence and points at its start (R201). -/
theorem Trx.storesWf_acceptWrite {c : Cfg} {t : Trx} (h : t.storesWf c) (now : Nat) (p : Packet) (a : Bool) (tm : Word64)
    (ch : Option Chunking) : (t.acceptWrite c now p a tm ch).storesWf c := by
  cases a
  · exact ⟨h.1, h.2.1, Nat.zero_le _⟩
  · exact ⟨rfl, Nat.zero_le _, Nat.zero_le _⟩

/-- The memory has its form after reset. -/
theorem Memory.wf_resetWith (c : Cfg) (eps : List Byte) (n : Nat) : Memory.wf (State.resetWith c eps n) := by
  refine ⟨schedWf_iff.2 ⟨by simp [State.resetWith], fun p b hp => ?_, fun cap _ => ?_⟩, fun t ht => ?_⟩
  · simp only [State.resetWith, List.getElem?_replicate] at hp
    split at hp
    · cases hp; simp
    · cases hp
  · simp [State.resetWith, schedTotal]
  · have := List.eq_of_mem_replicate (show t ∈ List.replicate n (Trx.reset c) from ht)
    subst this
    exact ⟨rfl, Nat.zero_le _, Nat.zero_le _⟩

/-! ### Reading the receive buffer, and its validation -/

@[simp] theorem Trx.rxRead_eq {t : Trx} (h : t.rxbuf.length = t.rxCount) (i : Nat) : t.rxRead i = t.rxbuf[i]? := by
  unfold Trx.rxRead
  split
  · rfl
  · exact (List.getElem?_eq_none (by omega)).symm

/-- A frame whose words all hold a value is validated to one of four results (R225 to R228), never to a fault. -/
theorem Trx.validate_spec {t : Trx} (h : t.rxbuf.length = t.rxCount) : ∃ r, t.validate = .ok r ∧
    ((t.rxbuf = [] ∧ r = ⟨.readFailed, [], 0, .missingData⟩) ∨
      ∃ f rest len, t.rxbuf = f :: rest ∧ len = (frameOfWord f).length.toNat ∧
        ((t.rxbuf.length < len + 2 ∧ r = ⟨.readFailed, [], 0, .missingData⟩) ∨
          ∃ w, t.rxbuf[len + 1]? = some w ∧
            ((checksumWords (t.rxbuf.take (len + 1)) ≠ lowByte w ∧ r = ⟨.readFailed, [], 0, .crcInvalid⟩) ∨
              (checksumWords (t.rxbuf.take (len + 1)) = lowByte w ∧
                r = ⟨.readComplete, t.rxbuf.take (len + 1), len + 1, .none⟩)))) := by
  unfold Trx.validate
  simp only [Trx.rxProgress, ← h, Trx.rxRead_eq h]
  cases hb : t.rxbuf with
  | nil => exact ⟨_, rfl, .inl ⟨rfl, rfl⟩⟩
  | cons f rest =>
    simp only [List.length_cons, Nat.add_one_ne_zero, if_false, List.getElem?_cons_zero]
    by_cases hl : rest.length + 1 < (frameOfWord f).length.toNat + 2
    · rw [if_pos hl]
      exact ⟨_, rfl, .inr ⟨f, rest, _, rfl, rfl, .inl ⟨hl, rfl⟩⟩⟩
    · rw [if_neg hl]
      have hw : (f :: rest)[1 + (frameOfWord f).length.toNat]? =
          some ((f :: rest)[(frameOfWord f).length.toNat + 1]'(by simp; omega)) := by
        rw [Nat.add_comm]; exact List.getElem?_eq_getElem (by simp; omega)
      have hr : t.rxReadFirst ((frameOfWord f).length.toNat + 1) =
          some ((f :: rest).take ((frameOfWord f).length.toNat + 1)) := by
        unfold Trx.rxReadFirst
        rw [← h, hb, if_pos ⟨by simp; omega, by simp; omega⟩]
      simp only [hw, hr]
      split
      · exact ⟨_, rfl, .inr ⟨f, rest, _, rfl, rfl, .inr ⟨_, List.getElem?_eq_getElem (by simp; omega), .inr ⟨‹_›, rfl⟩⟩⟩⟩
      · exact ⟨_, rfl, .inr ⟨f, rest, _, rfl, rfl, .inr ⟨_, List.getElem?_eq_getElem (by simp; omega), .inl ⟨‹_›, rfl⟩⟩⟩⟩

/-- With the stores in their form the act step always answers an instance (R218), never a fault. -/
theorem Trx.act_ok {c : Cfg} {t : Trx} (q : Poll) (h : t.storesWf c) : ∃ u, t.act c q = .ok u := by
  obtain ⟨h1, h2, _⟩ := h
  obtain ⟨r, hr, _⟩ := Trx.validate_spec (t := t.drain c) (by rw [Trx.drain_spec h1 h2])
  unfold Trx.act
  split <;> first | exact ⟨_, rfl⟩ | (simp only [Trx.actReadComplete, hr]; exact ⟨_, rfl⟩)

/-- `PROCESS_EVENTS` with a call open takes the act step of that call (R214, R216). -/
theorem execProcessEvents_act {s : State} {k : Nat} {t u : Trx} {q : Poll} {now : Word64} (h : s.trx[k]? = some t)
    (hp : t.poll = some q) (hu : t.act s.cfg q = .ok u) : execProcessEvents k now s = .next (afterAct s k u) := by
  simp only [execProcessEvents, onTrx_some h, hp, hu]
  rfl

end Sys2Proof.Machine
end

