-- ==== Sys2Proof/Laws/Step.lean ====
section
/-! SUPPORT. What a step can do, said once, and what the fetch leaves alone. -/

namespace Sys2Proof.Machine

/-! ### The port's latches and the step's inputs -/

@[simp] theorem loadPort_cfg (r : Request) (s : State) : (loadPort r s).cfg = s.cfg := by
  unfold loadPort; split <;> rfl
@[simp] theorem loadPort_endpoints (r : Request) (s : State) : (loadPort r s).endpoints = s.endpoints := by
  unfold loadPort; split <;> rfl
@[simp] theorem loadPort_nextId (r : Request) (s : State) : (loadPort r s).nextId = s.nextId := by
  unfold loadPort; split <;> rfl
@[simp] theorem loadPort_sched (r : Request) (s : State) : (loadPort r s).sched = s.sched := by
  unfold loadPort; split <;> rfl
@[simp] theorem loadPort_trx (r : Request) (s : State) : (loadPort r s).trx = s.trx := by
  unfold loadPort; split <;> rfl
@[simp] theorem loadPort_y (r : Request) (s : State) : (loadPort r s).y = s.y := by
  unfold loadPort; split <;> rfl
@[simp] theorem loadPort_outcome (r : Request) (s : State) : (loadPort r s).outcome = s.outcome := by
  unfold loadPort; split <;> rfl
@[simp] theorem loadPort_time (r : Request) (s : State) : (loadPort r s).time = r.time := by
  unfold loadPort; split <;> rfl
@[simp] theorem loadPort_lines (r : Request) (s : State) : (loadPort r s).lines = r.lines := by
  unfold loadPort; split <;> rfl
@[simp] theorem loadPort_draws (r : Request) (s : State) : (loadPort r s).draws = s.draws := by
  unfold loadPort; split <;> rfl
@[simp] theorem loadPort_turns (r : Request) (s : State) : (loadPort r s).turns = s.turns := by
  unfold loadPort; split <;> rfl

/-- The call that stands in the way is an open one, of the instance the command addresses (R200). -/
theorem callInTheWay_some {r : Request} {s : State} {k : Nat} (h : callInTheWay r s = some k) :
    ∃ q, s.openCall k = some q := by
  unfold callInTheWay at h
  split at h
  · split at h
    · cases h
      rename_i hc
      exact Option.isSome_iff_exists.1 hc.2
    · cases h
  · cases h

/-- An open call is its instance's (R39). -/
theorem State.openCall_eq_some {s : State} {k : Nat} {q : Poll} :
    s.openCall k = some q ↔ ∃ t, s.trx[k]? = some t ∧ t.poll = some q := by
  unfold State.openCall
  split
  · simp_all
  · simp_all

/-- What a step from `s` that answers the next state `t` did. -/
inductive StepCase (s t : State) : Prop where
  /-- Nothing is presented: the machine rests (R352). -/
  | rest (h : s.turns = []) (ht : t = s)
  /-- The reset input (R353). -/
  | reset (rest : List Turn) (h : s.turns = .reset :: rest) (ht : t = applyReset { s with turns := rest })
  /-- A resumed call that is not open: only the turn is spent. -/
  | noCall (k : Nat) (rest : List Turn) (h : s.turns = .resume k :: rest) (hc : s.openCall k = none)
      (ht : t = { s with turns := rest })
  /-- An illegal operation (R94). -/
  | illegal (r : Request) (rest : List Turn) (h : s.turns = .issue r :: rest)
      (ht : t = (loadPort r { s with turns := rest }).illegal)
  /-- The operation presented (R73). -/
  | issued (r : Request) (rest : List Turn) (i : Instr) (h : s.turns = .issue r :: rest) (hd : decode r.port = .ok i)
      (ha : portIssuer r.port = r.agent) (hc : callInTheWay r s = none)
      (ht : exec i (loadPort r { s with turns := rest }) = .next t)
  /-- The act step of an open call (R216), resumed or ended before the next command. -/
  | act (k : Nat) (q : Poll) (turns : List Turn) (h : turns = s.turns ∨ ∃ x, s.turns = x :: turns ∧ x ≠ .reset)
      (hn : ∀ rest, s.turns ≠ .reset :: rest) (hc : s.openCall k = some q)
      (ht : exec (.processEvents k q.now) { s with turns := turns } = .next t)

/-- Everything a step that answers a next state can have done. -/
theorem step_cases {s t : State} (h : step s = .next t) : StepCase s t := by
  unfold step nextMove at h
  split at h
  · rename_i u hu
    cases h
    split at hu
    · cases hu; exact .rest ‹_› rfl
    · cases hu; exact .reset _ ‹_› rfl
    · unfold resumeCall at hu
      split at hu
      · cases hu
      · cases hu; exact .noCall _ _ ‹_› ‹_› rfl
    · split at hu
      · rename_i hc
        obtain ⟨q, hq⟩ := callInTheWay_some hc
        simp [resumeCall, hq] at hu
      · unfold fetch at hu
        split at hu
        · split at hu
          · cases hu
          · cases hu; exact .illegal _ _ ‹_› rfl
          · cases hu
        · cases hu; exact .illegal _ _ ‹_› rfl
  · rename_i i u hu
    split at hu
    · cases hu
    · cases hu
    · rename_i k rest ht
      unfold resumeCall at hu
      split at hu
      · rename_i q hq
        cases hu
        exact .act k q rest (.inr ⟨_, ht, by simp⟩) (by simp [ht]) hq h
      · cases hu
    · rename_i r rest ht
      split at hu
      · rename_i k hc
        obtain ⟨q, hq⟩ := callInTheWay_some hc
        simp only [resumeCall, hq] at hu
        cases hu
        exact .act k q s.turns (.inl rfl) (by simp [ht]) hq h
      · rename_i hc
        unfold fetch at hu
        split at hu
        · rename_i ha
          split at hu
          · cases hu; exact .issued r rest _ ht ‹_› ha hc h
          · cases hu
          · cases hu
        · cases hu
  · cases h

end Sys2Proof.Machine
end

