-- ==== Sys2Proof/Tests/Slice0.lean ====
section
/-! SUPPORT. The model's own tests. Each expected result is one of the vectors of spec/95_test_vectors.md (named with the
test) or is worked by hand from the rule named; each test takes one step on a small state built by a helper. The last
section shows, for every statement with hypotheses, a state and operands that meet them. -/

open Sys2Proof Sys2Proof.Machine

namespace Sys2Proof.Tests

/-! ### Helpers -/

/-- The operation answers a next state with this property. -/
def nextAnd (o : Out) (p : State → Bool) : Bool :=
  match o with
  | .next s => p s
  | _ => false

/-- The operation ends in this fault. -/
def faultIs (o : Out) (f : Fault) : Bool :=
  match o with
  | .fault g => decide (g = f)
  | _ => false

/-- The operation is refused so. -/
def refusedIs (o : Out) (r : Refusal) : Bool :=
  match o with
  | .refused q => decide (q = r)
  | _ => false

/-- Transceiver 0 of a state has this property. -/
def trx0 (s : State) (p : Trx → Bool) : Bool :=
  match s.trx[0]? with
  | some t => p t
  | none => false

/-- A packet as the spec writes it, `length` the number of its payload words (R113). -/
def pkt (c r s : Byte) (ws : List Word32) : Packet := ⟨⟨c, r, s, BitVec.ofNat 8 ws.length⟩, ws⟩

/-- `p0` of the vectors. -/
def p0 : Packet := pkt 0x01 0x20 0x00 []

/-- PK-3. -/
def pk3 : Packet := pkt 0x09 0x20 0x00 [0x00000001]

/-- PK-4. -/
def pk4 : Packet := pkt 0x0C 0x01 0x20 [0x12345678, 0xDEADBEEF, 0x00000000]

/-- PK-8. -/
def pk8 : Packet := pkt 0x0C 0x01 0x00 [0x11111111, 0x22222222, 0x33333333, 0x44444444, 0x55555555]

/-- PK-10: malformed. -/
def pk10 : Packet := ⟨⟨0x01, 0x20, 0x00, 1⟩, []⟩

/-- A payload of 256 words. -/
def longPayload : List Word32 := List.replicate 256 0

theorem longPayload_length : longPayload.length = 256 := List.length_replicate

/-- A request with the defaults of R113. -/
def req (txTime : Word64) (p : Packet) (period : Word32 := 0) (endTime : Word64 := 0) : SendRequest :=
  ⟨txTime, ⟨0⟩, p, false, 0, period, endTime⟩

/-- A pending entry. -/
def ent (id : Word32) (pr : Byte) (t : Nat) (p : Packet := p0) (period : Word32 := 0) (endTime : Word64 := 0) :
    Transmission := ⟨id, pr, t, ⟨0⟩, p, false, 0, period, endTime⟩

/-- The transceiver at reset with the default configuration. -/
def tr : Trx := Trx.reset Cfg.default

/-- The machine at reset with this transceiver, this schedule and this sample of `TIME`. -/
def st (t : Trx := tr) (sched : List (List Transmission) := [[], [], [], []]) (time : Word64 := 0) : State :=
  { State.reset with trx := [t], sched := sched, time := time }

/-- The pending entries as the vectors write them. -/
def view (s : State) : List (List (Word32 × Nat)) := s.sched.map fun b => b.map fun e => (e.id, e.txTime)

/-- WR-1: the transceiver after the write of R208. -/
def writing : Trx :=
  { tr with
    state := .writeInProgress, deadline := some 1039, respExpected := true, readTimeout := 500, dir := .output
    txseq := [.bitcount 72, .word 0x09200001, .word 0x00000001, .crc 0x29, .trailer], txArmed := true
    rxPrepared := true, wireOut := [.sof] }

/-- EV-1: the transceiver waiting for a response. -/
def waiting : Trx :=
  { writing with
    state := .waitingForReadStart, deadline := some 1530, dir := .input, txPos := 5, txArmed := false
    rxPrepared := false, rxArmed := true }

/-- EV-5: a frame has started. -/
def reading : Trx := { waiting with state := .readInProgress, lastProgress := 0, lastProgressTime := 1100 }

/-- EV-6: a frame of these words has ended. -/
def complete (buf fifo : List Word32) : Trx :=
  { reading with state := .readComplete, rxArmed := false, rxbuf := buf, rxCount := buf.length, rxFifo := fifo }

/-- A transceiver with a `PROCESS_EVENTS` call open on this snapshot. -/
def polled (t : Trx) (snap : TState) (now : Word64) : Trx := { t with poll := some ⟨snap, now⟩ }

/-- The result of the act step of a poll on `t`'s own state at `now`. -/
def actIs (t : Trx) (now : Word64) (r : Res) (p : Trx → Bool := fun _ => true) : Bool :=
  nextAnd (exec (.processEvents 0 now) (st (polled t t.state now))) fun s => trx0 s fun u => decide (u.res = r) && p u

/-! ### WellFormed: an ill-formed term for each check -/

/-- R20: 256 payload words. -/
theorem test_wf_payload : (Instr.pktValid ⟨⟨0, 0, 0, 0⟩, longPayload⟩).wellFormed = false := by
  simp [Instr.wellFormed, Packet.payloadFits, longPayload_length]

/-- R20: the payload of a `WRITE`. -/
theorem test_wf_write_payload : (Instr.write 0 ⟨⟨0, 0, 0, 0⟩, longPayload⟩ false 0 none).wellFormed = false := by
  simp [Instr.wellFormed, Packet.payloadFits, longPayload_length]

/-- R20: the payload of an `ADD`. -/
theorem test_wf_add_payload : (Instr.add 0 (req 0 ⟨⟨0, 0, 0, 0⟩, longPayload⟩)).wellFormed = false := by
  simp [Instr.wellFormed, Packet.payloadFits, req, longPayload_length]

/-- R106: a chunk of 0 words. -/
theorem test_wf_chunk : (Instr.write 0 p0 false 0 (some ⟨0, 9⟩)).wellFormed = false := by decide

/-- R168: a period of 0. -/
theorem test_wf_period : (Instr.nextCadence 0 0 0).wellFormed = false := by decide

/-- R68: a tail with a stray bit. -/
theorem test_wf_tail : (Instr.checksumWord 0 ⟨0x26, 1⟩).wellFormed = false := by decide

/-- Well-formed terms pass. -/
theorem test_wf_passes : (Instr.write 0 pk8 true 5 (some ⟨1, 9⟩)).wellFormed = true ∧
    (Instr.nextCadence 0 1 0).wellFormed = true ∧ (Instr.checksumWord 0 ⟨0x26, 0⟩).wellFormed = true := by decide

/-! ### Decode: a word for every constructor, from R92, R96 and R109 -/

theorem test_decode_pk :
    decodeTableWord 8 0x01 = some (.pktGetCommand ⟨⟨0, 0, 0, 0⟩, []⟩) ∧
    decodeTableWord 8 0x02 = some (.pktGetRecipient ⟨⟨0, 0, 0, 0⟩, []⟩) ∧
    decodeTableWord 8 0x03 = some (.pktGetSender ⟨⟨0, 0, 0, 0⟩, []⟩) ∧
    decodeTableWord 8 0x04 = some (.pktValid ⟨⟨0, 0, 0, 0⟩, []⟩) ∧
    decodeTableWord 8 0x05 = some (.pktGetLength ⟨⟨0, 0, 0, 0⟩, []⟩) ∧
    decodeTableWord 8 0x06 = some (.pktFrameword ⟨⟨0, 0, 0, 0⟩, []⟩) ∧
    decodeTableWord 8 0x07 = some (.pktTotalbits ⟨⟨0, 0, 0, 0⟩, []⟩) ∧
    decodeTableWord 8 0x08 = some (.pktTxduration ⟨⟨0, 0, 0, 0⟩, []⟩) ∧
    decodeTableWord 8 0x09 = some (.pktChecksum ⟨⟨0, 0, 0, 0⟩, []⟩) := by decide

theorem test_decode_sc :
    decodeTableWord 8 0x10 = some (.add 0 (req 0 ⟨⟨0, 0, 0, 0⟩, []⟩)) ∧
    decodeTableWord 8 0x11 = some (.popnext 0) ∧ decodeTableWord 8 0x12 = some (.cancelById 0) ∧
    decodeTableWord 8 0x13 = some (.cancelByRecipient 0) ∧ decodeTableWord 8 0x14 = some (.countRecipients 0) ∧
    decodeTableWord 8 0x15 = some .cancelAll ∧ decodeTableWord 8 0x16 = some (.nextCadence 0 0 0) := by decide

theorem test_decode_ep :
    decodeTableWord 8 0x20 = some (.epAdd 0 (req 0 ⟨⟨0, 0, 0, 0⟩, []⟩)) ∧
    decodeTableWord 8 0x22 = some (.epCancelById 0 0) ∧ decodeTableWord 8 0x23 = some (.epCancelByRecipient 0 0) ∧
    decodeTableWord 8 0x24 = some (.epCountRecipients 0 0) ∧ decodeTableWord 8 0x25 = some (.epCancelAll 0) := by decide

theorem test_decode_tr :
    decodeTableWord 8 0x30 = some (.write 0 ⟨⟨0, 0, 0, 0⟩, []⟩ false 0 none) ∧
    decodeTableWord 8 0x31 = some (.startRead 0 0) ∧ decodeTableWord 8 0x32 = some (.processEvents 0 0) ∧
    decodeTableWord 8 0x33 = some (.lineCheck 0) := by decide

theorem test_decode_ev_en :
    decodeTableWord 8 0x40 = some (.evTxdone 0) ∧ decodeTableWord 8 0x41 = some (.evRxsig 0) ∧
    decodeTableWord 8 0x48 = some (.enTxShift 0) ∧ decodeTableWord 8 0x49 = some (.enRxCapture 0 0) ∧
    decodeTableWord 8 0x4A = some (.enRxTransfer 0) := by decide

theorem test_decode_hw :
    decodeTableWord 8 0x50 = some (.hwTxStart 0) ∧ decodeTableWord 8 0x51 = some (.hwTxStop 0) ∧
    decodeTableWord 8 0x52 = some (.hwTxIsidle 0) ∧ decodeTableWord 8 0x54 = some (.hwRxPrepare 0) ∧
    decodeTableWord 8 0x55 = some (.hwRxStart 0) ∧ decodeTableWord 8 0x56 = some (.hwRxStop 0) ∧
    decodeTableWord 8 0x57 = some (.hwRxIsidle 0) ∧ decodeTableWord 8 0x58 = some (.hwRxProgress 0) ∧
    decodeTableWord 8 0x59 = some (.hwDirSet 0 .input) := by decide

theorem test_decode_cb :
    decodeTableWord 8 0x60 = some (.notifyStarted ⟨0⟩) ∧ decodeTableWord 8 0x61 = some (.notifyFailed ⟨0⟩ false false) ∧
    decodeTableWord 8 0x62 = some (.notifyCompleted ⟨0⟩ ⟨⟨0, 0, 0, 0⟩, []⟩) := by decide

/-- PK-4's frame word, PK-3's checksum word. -/
theorem test_decode_wire :
    decodeTableWord 32 0x0C012003 = some (.frameWord 0 0x0C 0x01 0x20 0x03) ∧
    decodeTableWord 32 0x00000029 = some (.checksumWord 0 ⟨0x29, 0⟩) := by decide

/-- XV-1: the reserved opcodes it lists. -/
theorem test_decode_reserved : [0x00, 0x0A, 0x17, 0x21, 0x34, 0x42, 0x4B, 0x53, 0x5A, 0x63, 0x7F, 0xFF].all
    (fun op => decodeTableWord 8 op == none) = true := by decide

/-- P1 step 1 and P3 step 1: the operand latches in the order of R152 and R201. -/
theorem test_decode_operands :
    decode (.command 0x10 0 { x0 := .u8 1, x1 := .u64 7, x2 := .handle ⟨5⟩, x3 := .packet p0, x4 := .u1 true,
                              x5 := .u32 4, x6 := .u32 1000, x7 := .u64 9 }) =
      .ok (.add 1 ⟨7, ⟨5⟩, p0, true, 4, 1000, 9⟩) ∧
    decode (.command 0x30 2 { x0 := .packet pk3, x1 := .u1 true, x2 := .u64 500, x3 := .chunking (some ⟨2, 50⟩) }) =
      .ok (.write 2 pk3 true 500 (some ⟨2, 50⟩)) := ⟨rfl, rfl⟩

/-- R68, 93 U6: a tail with a stray bit is read as one. -/
theorem test_decode_stray_tail : decode (.wireTail 0 0x00000126) = .ok (.checksumWord 0 ⟨0x26, 1⟩) := rfl

/-- R93, R94: what is rejected by name. -/
theorem test_decode_rejects :
    decode (.command 0x11 0 { x0 := .u8 1 }) = .error .operandType ∧
    decode (.command 0x34 0 {}) = .error .reservedOpcode := ⟨rfl, rfl⟩

/-! ### Packet functions: PK-4, PK-10 and PK-12 -/

theorem test_pk4_fields :
    nextAnd (exec (.pktGetCommand pk4) st) (fun s => s.y.y0 == .u8 0x0C) = true ∧
    nextAnd (exec (.pktGetRecipient pk4) st) (fun s => s.y.y0 == .u8 0x01) = true ∧
    nextAnd (exec (.pktGetSender pk4) st) (fun s => s.y.y0 == .u8 0x20) = true ∧
    nextAnd (exec (.pktGetLength pk4) st) (fun s => s.y.y0 == .u8 3) = true := by decide

theorem test_pk4_computed :
    nextAnd (exec (.pktFrameword pk4) st) (fun s => s.y.y0 == .u32 0x0C012003) = true ∧
    nextAnd (exec (.pktTotalbits pk4) st) (fun s => s.y.y0 == .nat 136) = true ∧
    nextAnd (exec (.pktTxduration pk4) st) (fun s => s.y.y0 == .nat 64000) = true ∧
    nextAnd (exec (.pktChecksum pk4) st) (fun s => s.y.y0 == .u8 0x04) = true := by decide

theorem test_pk10_malformed :
    nextAnd (exec (.pktValid pk10) st) (fun s => s.y.y0 == .u1 false) = true ∧
    nextAnd (exec (.pktTotalbits pk10) st) (fun s => s.y.y0 == .nat 40) = true ∧
    nextAnd (exec (.pktTxduration pk10) st) (fun s => s.y.y0 == .nat 32000) = true ∧
    nextAnd (exec (.pktChecksum pk10) st) (fun s => s.y.y0 == .u8 0x20) = true := by decide

/-- PK-12 and PK-4. -/
theorem test_pkt_valid : packetValid ⟨⟨1, 2, 3, 0⟩, longPayload⟩ = false ∧
    nextAnd (exec (.pktValid pk4) st) (fun s => s.y.y0 == .u1 true) = true :=
  ⟨by simp [packetValid, longPayload_length], by decide⟩

/-! ### Scheduler -/

/-- SC-2, its last `add`: equal times keep their order. -/
theorem test_add_order :
    nextAnd (exec (.add 1 (req 300 p0)) (st tr [[], [ent 1 1 0, ent 2 1 300, ent 0 1 500], [], []]))
      (fun s => view s == [[], [(1, 0), (2, 300), (0, 300), (0, 500)], [], []] && s.nextId == 1) = true := by decide

/-- SC-3 and SC-4. -/
theorem test_add_wrap_and_range :
    nextAnd (exec (.add 3 (req 9 p0)) { (st tr) with nextId := 0xFFFFFFFF })
      (fun s => s.y.y0 == .u32 0xFFFFFFFF && s.nextId == 0) = true ∧
    faultIs (exec (.add 4 (req 9 p0)) st) (.contractViolation .priorityOutOfRange) = true := by decide

/-- SC-7. -/
theorem test_popnext_skips_undue :
    nextAnd (exec (.popnext 100) (st tr [[ent 0 0 5000], [ent 1 1 0], [], []]))
      (fun s => s.y.y0 == .transmission (some (ent 1 1 0)) && view s == [[(0, 5000)], [], [], []]) = true := by decide

/-- SC-16: a late poll skips the missed occurrences. -/
theorem test_popnext_cadence :
    nextAnd (exec (.popnext 4700) (st tr [[ent 0 0 2000 p0 1000], [], [], []]))
      (fun s => s.y.y0 == .transmission (some (ent 0 0 2000 p0 1000)) && view s == [[(0, 5000)], [], [], []]) = true := by
  decide

/-- The schedule of SC-12. -/
def sc12 : List (List Transmission) :=
  [[ent 0 0 0 (pkt 1 1 0 []), ent 3 0 7 (pkt 1 2 0 []) 100], [ent 1 1 10], [ent 2 2 5 (pkt 1 1 0 [])], []]

/-- SC-13. -/
theorem test_cancel_by_id : nextAnd (exec (.cancelById 1) (st tr sc12))
    (fun s => s.y.y0 == .u32 1 && view s == [[(0, 0), (3, 7)], [], [(2, 5)], []]) = true := by decide

/-- R42, R43, R350: `accepted` and `count` are results of their own operations only. -/
theorem test_status_outputs :
    nextAnd (exec (.pktValid pk4) st) (fun s => s.accepted == none && s.count == none) = true ∧
    nextAnd (exec (.pktFrameword pk4) st) (fun s => s.count == none) = true ∧
    nextAnd (exec (.add 1 (req 0 p0)) st) (fun s => s.count == none) = true ∧
    nextAnd (exec (.lineCheck 0) st) (fun s => s.accepted == none) = true ∧
    State.reset.accepted = none ∧ State.reset.count = none := by decide

/-- R162 on the schedule of SC-12. -/
theorem test_cancel_by_recipient : nextAnd (exec (.cancelByRecipient 0x01) (st tr sc12))
    (fun s => s.count == some 2 && view s == [[(3, 7)], [(1, 10)], [], []]) = true := by decide

/-- SC-12. -/
theorem test_count_recipients : nextAnd (exec (.countRecipients 0x01) (st tr sc12))
    (fun s => s.y.y0 == .u32 2 && s.sched == sc12) = true := by decide

/-- SC-15b. -/
theorem test_cancel_all : nextAnd (exec .cancelAll (st tr sc12))
    (fun s => s.y.y0 == .u32 4 && view s == [[], [], [], []]) = true := by decide

/-- SC-26, SC-31 and SC-34. -/
theorem test_next_cadence :
    nextAnd (exec (.nextCadence 100 1000 5250) st) (fun s => s.y.y0 == .nat 250) = true ∧
    nextAnd (exec (.nextCadence 1000 1000 999) st) (fun s => s.y.y0 == .nat 1999) = true ∧
    faultIs (exec (.nextCadence 5 0 3) st) (.contractViolation .zeroPeriod) = true := by decide

/-! ### Endpoints: EP-1, EP-3, EP-4, EP-5, EP-6 with endpoint `e` of priority `e` -/

theorem test_ep_add : nextAnd (exec (.epAdd 2 (req 0 p0)) st)
    (fun s => s.y.y0 == .u32 0 && view s == [[], [], [(0, 0)], []] && s.nextId == 1) = true := by decide

theorem test_ep_commands :
    nextAnd (exec (.epCancelById 2 1) (st tr [[ent 1 0 50], [], [ent 0 2 0], []]))
      (fun s => s.y.y0 == .u32 1 && view s == [[], [], [(0, 0)], []]) = true ∧
    nextAnd (exec (.epCountRecipients 0 0x20) (st tr [[], [], [ent 0 2 0], []])) (fun s => s.y.y0 == .u32 1) = true ∧
    nextAnd (exec (.epCancelByRecipient 0 0x20) st) (fun s => s.y.y0 == .u32 0) = true ∧
    nextAnd (exec (.epCancelAll 2) (st tr [[ent 2 0 60], [], [ent 0 2 0], []]))
      (fun s => s.y.y0 == .u32 2 && view s == [[], [], [], []]) = true := by decide

/-! ### Transceiver commands -/

/-- WR-1. -/
theorem test_write_accepted : nextAnd (exec (.write 0 pk3 true 500 none) (st tr [[], [], [], []] 1000))
    (fun s => s.accepted == some true && trx0 s (fun t => t == writing)) = true := by decide

/-- WR-2, WR-5 and TX-7. -/
theorem test_write_refused :
    nextAnd (exec (.write 0 pk3 true 500 none) { (st tr) with lines := [⟨true, true⟩, ⟨true, false⟩] })
      (fun s => s.y.y0 == .u1 false && trx0 s (fun t => t == tr)) = true ∧
    faultIs (exec (.write 0 pk10 false 0 none) st) (.contractViolation .malformedPacket) = true ∧
    faultIs (exec (.write 0 pk3 false 0 (some ⟨0, 9⟩)) st) (.contractViolation .zeroChunk) = true := by decide

/-- TX-5. -/
theorem test_chunked_sequence : buildSequence pk8 (packetChecksum pk8) (some ⟨2, 50⟩) =
    [.bitcount 96, .word 0x0C010005, .word 0x11111111, .word 0x22222222, .reentry, .bitcount 64, .delaycount 50,
     .word 0x33333333, .word 0x44444444, .reentry, .bitcount 40, .delaycount 50, .word 0x55555555, .crc 0x08, .trailer] := by
  decide

/-- DL-2, DL-5 and DL-6. -/
theorem test_write_budget : writeBudgetUs Cfg.default pk3 none = 39 ∧
    writeBudgetUs Cfg.default pk8 (some ⟨2, 50⟩) = 126 ∧
    writeBudgetUs Cfg.default (pkt 0x0C 0x01 0x00 [1, 2, 3, 4]) (some ⟨2, 7⟩) = 97 := by decide

/-- SR-1, SR-2 and SR-4. -/
theorem test_start_read :
    nextAnd (exec (.startRead 0 300) (st tr [[], [], [], []] 2000)) (fun s => s.accepted == some true && trx0 s (fun t =>
      t.state == .waitingForReadStart && t.deadline == some 2300 && t.dir == .input && t.rxArmed && t.readTimeout == tr.readTimeout)) = true ∧
    nextAnd (exec (.startRead 0 0xFFFFFFFFFFFFFFFF) st) (fun s => trx0 s (fun t => t.deadline == none)) = true ∧
    nextAnd (exec (.startRead 0 5) (st waiting)) (fun s => s.accepted == some false && trx0 s (fun t => t == waiting)) = true := by decide

/-- PE-2, PE-3, PE-6 and PE-7. -/
theorem test_process_deadline :
    actIs writing 1039 ⟨.writeInProgress, [], 0, .none⟩ (fun t => t.state == .writeInProgress) = true ∧
    actIs writing 1040 ⟨.writeFailed, [], 0, .timeout⟩
      (fun t => t.state == .idle && !t.txArmed && !t.rxPrepared && t.dir == .input) = true ∧
    actIs waiting 1531 ⟨.readFailed, [], 0, .timeout⟩ (fun t => t.state == .idle && !t.rxArmed) = true ∧
    actIs { waiting with deadline := none } 0xFFFFFFFFFFFFFFFF ⟨.waitingForReadStart, [], 0, .none⟩ = true := by decide

/-- PE-10, PE-14, PE-15, PE-16, PE-20, PE-21. -/
theorem test_process_read_complete :
    actIs (complete [0x05002002, 1, 0xA5A5A5A5] []) 7 ⟨.readFailed, [], 0, .missingData⟩ = true ∧
    actIs (complete [0x05002002, 1, 0xA5A5A5A4, 0x26] []) 7 ⟨.readFailed, [], 0, .crcInvalid⟩ = true ∧
    actIs (complete [0x05002002, 1, 0xA5A5A5A5, 0xFFFFFF26, 0xDEAD] []) 7
      ⟨.readComplete, [0x05002002, 1, 0xA5A5A5A5], 3, .none⟩ = true ∧
    actIs (complete [0x05002002, 1, 0xA5A5A5A5] [0x26]) 7 ⟨.readComplete, [0x05002002, 1, 0xA5A5A5A5], 3, .none⟩
      (fun t => t.state == .idle && t.rxFifo == [] && t.rxCount == 4) = true ∧
    actIs (complete [0x05002001, 1, 0xA5A5A5A5, 0x26] []) 7 ⟨.readFailed, [], 0, .crcInvalid⟩ = true := by decide

/-- HW-1, XV-2: `LINE_CHECK` on its own is the bench's; the foreground is refused it. -/
theorem test_line_check :
    nextAnd (exec (.lineCheck 0) { (st tr) with lines := [⟨true, true⟩, ⟨false, true⟩] }) (fun s => s.y.y0 == .u1 false) = true ∧
    nextAnd (step { (st tr) with turns := [.issue ⟨.foreground, 0, [⟨true, true⟩], .command 0x33 0 {}⟩] })
      (fun s => s.outcome == .illegalOperation && s.turns == []) = true := by decide

/-! ### Events, environment steps, primitives -/

/-- EV-1 and EV-4. -/
theorem test_txdone :
    nextAnd (exec (.evTxdone 0) (st { writing with txPos := 5 } [[], [], [], []] 1030)) (fun s => trx0 s (fun t => t == waiting)) = true ∧
    nextAnd (exec (.evTxdone 0) (st { writing with txPos := 4 } [[], [], [], []] 1030)) (fun s => s == st { writing with txPos := 4 } [[], [], [], []] 1030) = true := by
  decide

/-- EV-5 and EV-6. -/
theorem test_rxsig :
    nextAnd (exec (.evRxsig 0) (st waiting [[], [], [], []] 1100)) (fun s => trx0 s (fun t => t == reading)) = true ∧
    nextAnd (exec (.evRxsig 0) (st reading [[], [], [], []] 1200)) (fun s => trx0 s (fun t => t.state == .readComplete && !t.rxArmed)) = true := by
  decide

/-- EN-1, one item of it. -/
theorem test_shift : nextAnd (exec (.enTxShift 0) (st { writing with txPos := 3 }))
    (fun s => trx0 s (fun t => t.txPos == 4 && t.wireOut == [.sof, .b8 0x29])) = true := by decide

/-- EN-2 and EN-4. -/
theorem test_capture :
    nextAnd (exec (.enRxCapture 0 0x05002002) (st waiting)) (fun s => trx0 s (fun t => t.rxFifo == [0x05002002])) = true ∧
    nextAnd (exec (.enRxCapture 0 0x05002002) st) (fun s => s == st) = true := by decide

/-- EN-2 and EN-3. -/
theorem test_transfer :
    nextAnd (exec (.enRxTransfer 0) (st { waiting with rxFifo := [0x05002002, 7] }))
      (fun s => trx0 s (fun t => t.rxbuf == [0x05002002] && t.rxCount == 1 && t.rxFifo == [7])) = true ∧
    nextAnd (exec (.enRxTransfer 0) (st { waiting with rxCount := 258, rxFifo := [7] }))
      (fun s => trx0 s (fun t => t.rxCount == 258 && t.rxFifo == [7])) = true := by decide

/-- HW-1 to HW-3. -/
theorem test_hw_reads :
    nextAnd (exec (.hwTxIsidle 0) (st writing)) (fun s => s.y.y0 == .u1 false) = true ∧
    nextAnd (exec (.hwRxIsidle 0) (st writing)) (fun s => s.y.y0 == .u1 true) = true ∧
    nextAnd (exec (.hwRxIsidle 0) (st waiting)) (fun s => s.y.y0 == .u1 false) = true ∧
    nextAnd (exec (.hwRxProgress 0) (st (complete [1, 2, 3] []))) (fun s => s.y.y0 == .nat 3) = true := by decide

/-- HW-4 and HW-8. -/
theorem test_hw_tx :
    nextAnd (exec (.hwTxStop 0) (st { writing with txPos := 2 })) (fun s => trx0 s (fun t => !t.txArmed && t.txPos == 2)) = true ∧
    nextAnd (exec (.hwTxStart 0) (st { tr with txPos := 2 })) (fun s => trx0 s (fun t => t.txArmed && t.txPos == 0 && t.wireOut == [.sof])) = true ∧
    nextAnd (exec (.hwDirSet 0 .output) st) (fun s => trx0 s (fun t => t.dir == .output)) = true := by decide

/-- HW-5 to HW-7. -/
theorem test_hw_rx :
    nextAnd (exec (.hwRxStop 0) (st { waiting with rxFifo := [7] })) (fun s => trx0 s (fun t => !t.rxArmed && t.rxFifo == [7])) = true ∧
    nextAnd (exec (.hwRxPrepare 0) (st (complete [1, 2] [7]))) (fun s => trx0 s (fun t =>
      t.rxCount == 0 && t.rxFifo == [] && t.rxPrepared && !t.rxArmed)) = true ∧
    nextAnd (exec (.hwRxStart 0) (st (complete [1, 2] [7]))) (fun s => trx0 s (fun t =>
      t.rxCount == 0 && t.rxFifo == [] && !t.rxPrepared && t.rxArmed)) = true := by decide

/-- Log entry 4: the wire words of PK-6's response, and R140: the callbacks. -/
theorem test_wire_words_and_callbacks :
    nextAnd (exec (.frameWord 0 0x05 0x00 0x20 0x02) (st waiting)) (fun s => trx0 s (fun t => t.rxFifo == [0x05002002])) = true ∧
    nextAnd (exec (.checksumWord 0 ⟨0x26, 0⟩) (st waiting)) (fun s => trx0 s (fun t => t.rxFifo == [0x00000026])) = true ∧
    nextAnd (exec (.notifyStarted ⟨1⟩) st) (fun s => s == st) = true ∧
    nextAnd (exec (.notifyFailed ⟨1⟩ true false) st) (fun s => s == st) = true ∧
    nextAnd (exec (.notifyCompleted ⟨1⟩ p0) st) (fun s => s == st) = true := by decide

/-- 93 U6: a tail with stray bits is captured as one word, which nothing is said of, and the machine goes on. -/
theorem test_stray_tail :
    nextAnd (exec (.checksumWord 0 ⟨0x26, 1⟩) (st waiting)) (fun s => s.draws == 1 && trx0 s (fun t => t.rxFifo.length == 1)) = true ∧
    nextAnd (exec (.checksumWord 0 ⟨0x26, 1⟩) st) (fun s => s == st) = true := by decide

/-- R67: the same word in both orders of its bits, on the bus and off it. -/
theorem test_wire_bit_order :
    Symbol.bits { wireBitOrder := .msbFirst } (.b8 0x29) = [false, false, true, false, true, false, false, true] ∧
    Symbol.bits { wireBitOrder := .lsbFirst } (.b8 0x29) = [true, false, false, true, false, true, false, false] ∧
    offBus { wireBitOrder := .lsbFirst } (0x05002002 : Word32) = 0x05002002 ∧
    offBus { wireBitOrder := .msbFirst } (0x26 : Byte) = 0x00000026 := by decide

/-! ### The step -/

/-- R92, R94: presented words are fetched and run, and the first step after reset is theirs. -/
theorem test_fetch_word :
    nextAnd (step (State.reset.withFetchWord 8 0x11)) (fun s => s.y.y0 == .transmission none && s.op == 0x11 && s.turns == []) = true ∧
    nextAnd (step (State.reset.withFetchWord 8 0x50)) (fun s => trx0 s (fun t => t.txArmed)) = true ∧
    nextAnd (step (State.reset.withFetchWord 8 0x21)) (fun s => s.outcome == .illegalOperation) = true ∧
    nextAnd (step (State.reset.withFetchWord 32 0x0C012003)) (fun s => s == State.reset) = true := by decide

/-- R216: the two steps of one call, and what a handler between them leaves (RC-2). -/
theorem test_two_steps :
    nextAnd (step { (st writing) with turns := [.issue ⟨.foreground, 0, [], .command 0x32 0 { x0 := .u64 1040 }⟩, .resume 0] })
      (fun s => trx0 s (fun t => t.poll == some ⟨.writeInProgress, 1040⟩)) = true ∧
    nextAnd (step { (st { polled writing .writeInProgress 1040 with state := .writeComplete, txArmed := false }) with turns := [.resume 0] })
      (fun s => trx0 s (fun t => t.state == .idle && t.res == ⟨.writeFailed, [], 0, .timeout⟩) && s.outcome == .failureReport) = true := by
  decide

/-- R353: the reset input. -/
theorem test_reset_turn : nextAnd (step { (st waiting sc12) with turns := [.reset] }) (fun s => s == State.reset) = true := by decide

/-- R93: an operand of another type, an absent instance. -/
theorem test_refusals :
    refusedIs (step { State.reset with turns := [.issue ⟨.foreground, 0, [], .command 0x11 0 { x0 := .u8 1 }⟩] }) .operandType = true ∧
    refusedIs (exec (.startRead 1 0) State.reset) .noSuchTransceiver = true ∧
    refusedIs (exec (.epCancelAll 4) State.reset) .noSuchEndpoint = true := by decide

/-! ### Witnesses: states and operands that meet the hypotheses of the statements, at the edges of each clause -/

/-- The configuration of R7 with room for two entries. -/
def small : Cfg := { schedCapacity := some 2 }

theorem inv_tr : tr.Inv Cfg.default :=
  ⟨by decide, by decide, by decide, by decide, by decide, by decide, by decide, fun _ h => by cases h⟩

theorem inv_writing : writing.Inv Cfg.default :=
  ⟨by decide, by decide, by decide, by decide, by decide, by decide, by decide, fun _ h => by cases h⟩

/-- A write whose sequence has gone out, with and without a response expected. -/
def sent (resp : Bool) : Trx := { writing with txPos := 5, respExpected := resp, rxPrepared := false }

theorem inv_sent : (sent true).Inv Cfg.default ∧ (sent false).Inv Cfg.default :=
  ⟨⟨by decide, by decide, by decide, by decide, by decide, by decide, by decide, fun _ h => by cases h⟩,
   ⟨by decide, by decide, by decide, by decide, by decide, by decide, by decide, fun _ h => by cases h⟩⟩

theorem inv_waiting : waiting.Inv Cfg.default :=
  ⟨by decide, by decide, by decide, by decide, by decide, by decide, by decide, fun _ h => by cases h⟩

/-- A frame of which one word is stored and not yet marked. -/
def moving : Trx := { reading with rxbuf := [5], rxCount := 1 }

/-- A read whose buffer is full. -/
def full : Trx := { reading with rxbuf := List.replicate 258 0, rxCount := 258 }

theorem inv_full : full.Inv Cfg.default :=
  ⟨⟨List.length_replicate, by decide, by decide⟩, by decide, by decide, by decide, by decide, by decide, by decide,
    fun _ h => by cases h⟩

theorem inv_reading : reading.Inv Cfg.default :=
  ⟨by decide, by decide, by decide, by decide, by decide, by decide, by decide, fun _ h => by cases h⟩

theorem inv_listening : { waiting with deadline := none }.Inv Cfg.default :=
  ⟨by decide, by decide, by decide, by decide, by decide, by decide, by decide, fun _ h => by cases h⟩

theorem inv_moving : moving.Inv Cfg.default :=
  ⟨by decide, by decide, by decide, by decide, by decide, by decide, by decide, fun _ h => by cases h⟩

/-- A write whose deadline passed before a poll. -/
theorem inv_polled : (polled writing .writeInProgress 1040).Inv Cfg.default :=
  ⟨by decide, by decide, by decide, by decide, by decide, by decide, by decide, fun _ h => by cases h; rfl⟩

/-- The machine at reset, with these turns, satisfies the invariant of R46. -/
theorem inv_reset (n : Nat) (turns : List Turn) (h : turnsOfTheBlock turns) :
    ({ State.resetWith Cfg.default [0, 1, 2, 3] n with turns := turns } : State).Inv where
  cfg := (by decide : Cfg.default.wf)
  endpoints := (by decide : ∀ p ∈ [(0 : Byte), 1, 2, 3], p ≤ Cfg.default.maxPriority)
  sched := (Memory.wf_resetWith Cfg.default [0, 1, 2, 3] n).1
  trx := fun t ht => by
    have := List.eq_of_mem_replicate (show t ∈ List.replicate n tr from ht)
    subst this
    exact inv_tr
  turns := h

/-- The state after reset satisfies the invariant. -/
theorem reset_inv : State.reset.Inv := inv_reset 1 [] (fun _ h => by cases h)

/-- `IllegalOperationHasNoEffect`: a reserved opcode, and the hardware's opcode nearest to the foreground's. -/
theorem witness_illegal_operation :
    (∀ op ∈ [0x00#8, 0x33#8, 0x40#8, 0xFF#8],
      op.toNat ∉ [0x01, 0x02, 0x03, 0x04, 0x05, 0x06, 0x07, 0x08, 0x09, 0x10, 0x11, 0x12, 0x13, 0x14, 0x15, 0x16,
        0x20, 0x22, 0x23, 0x24, 0x25, 0x30, 0x31, 0x32]) ∧
    State.openCall { (st tr) with turns := [.issue ⟨.foreground, 0, [], .command 0x33 0 {}⟩] } 0 = none := by decide

/-- `AddInsertsInTimeOrder`: priorities 4 and 3 of 0..3; a schedule of two entries with room for two, and with room for
more; a bucket with an entry of the same time. -/
theorem witness_add : (st tr).cfg.maxPriority.toNat < (4 : Byte).toNat ∧ (3 : Byte).toNat ≤ (st tr).cfg.maxPriority.toNat ∧
    (small.schedCapacity = some 2 ∧ 2 ≤ ([[ent 0 0 9], [ent 1 1 9], [], []].map List.length).sum) ∧
    (∀ cap, (st tr).cfg.schedCapacity = some cap → ((st tr).sched.map List.length).sum < cap) ∧
    (st tr [[], [], [], [ent 0 3 9, ent 1 3 9]]).sched[3]? = some [ent 0 3 9, ent 1 3 9] ∧
    bucketSorted [ent 0 3 9, ent 1 3 9] :=
  ⟨by decide, by decide, by decide, fun _ h => (by cases h), by decide, by decide⟩

/-- `PopNextAnswersNoneWhenNothingIsDue`: a head one microsecond late. -/
theorem witness_pop_none : ∀ (p : Nat) h tl, (st tr [[], [ent 0 1 101], [], []]).sched[p]? = some (h :: tl) →
    (100 : Word64).toNat < h.txTime := by
  intro p h tl hp
  rcases p with _ | _ | _ | _ | p <;> simp [st] at hp
  rw [← hp.1]
  decide

/-- `PopNextTakesFirstDueHeadAndReschedules`: a head due exactly now behind an empty bucket and one not due, with no
period, with a period and room before the end, and with the next time exactly the end. -/
theorem witness_pop_takes : ∀ h ∈ [ent 0 2 100, ent 0 2 100 p0 1000 1101, ent 0 2 100 p0 1000 1100],
    (st tr [[], [ent 1 1 101], [h], []]).sched[2]? = some [h] ∧ h.txTime ≤ (100 : Word64).toNat ∧
    (∀ (q : Nat) h' tl', q < 2 → (st tr [[], [ent 1 1 101], [h], []]).sched[q]? = some (h' :: tl') →
      (100 : Word64).toNat < h'.txTime) := by
  intro h hh
  refine ⟨rfl, ?_, ?_⟩
  · revert h; decide
  · intro q h' tl' hq hs
    rcases q with _ | _ | q
    · simp [st] at hs
    · simp only [st, List.getElem?_cons_succ, List.getElem?_cons_zero, Option.some.injEq, List.cons.injEq] at hs
      rw [← hs.1]
      decide
    · omega

/-- `PopNextReturnsADueEntryOfLeastNumber`: a well-formed schedule with a due entry. -/
theorem witness_pop_least : schedWf Cfg.default [[], [ent 0 1 100], [], []] ∧
    ([[], [ent 0 1 100], [], []] : List (List Transmission))[1]? = some [ent 0 1 100] ∧ ent 0 1 100 ∈ [ent 0 1 100] ∧
    (ent 0 1 100).txTime ≤ (100 : Word64).toNat := by
  refine ⟨schedWf_iff.2 ⟨rfl, ?_, fun _ h => by cases h⟩, by decide, by decide, by decide⟩
  intro p b hp
  rcases p with _ | _ | _ | _ | p <;> simp at hp <;> subst hp <;> simp [ent]

/-- `CancelRemovesExactlyTheMatches`, `CountAgreesWithCancelByRecipient`, `CancelAllEmptiesEveryBucket`: fewer than 2^32
entries. -/
theorem witness_counts : (sc12.map fun b => b.countP fun e => decide (e.id = 1)).sum < 2 ^ 32 ∧
    sc12.flatten.countP (fun e => decide (e.packet.frame.recipientAddr = 1)) < 2 ^ 32 ∧ sc12.flatten.length < 2 ^ 32 := by
  decide

/-- `NextCadenceIsTheFirstCongruentTime`: the least period. `ChecksumIgnoresOrder`: two words swapped, and the bytes of a
word. -/
theorem witness_cadence_and_order : 0 < 1 ∧ ([1, 2] : List Word32).Perm [2, 1] ∧
    ([1, 2, 3, 4] : List Byte).Perm [4, 3, 2, 1] := by decide

/-- `EndpointAddIsAddAtItsPriority`, `EndpointCommandsReachTheWholeSchedule`: the endpoint of the last priority. -/
theorem witness_endpoint : (st tr).endpoints[3]? = some 3 ∧ (3 : Byte).toNat ≤ (st tr).cfg.maxPriority.toNat ∧
    (∀ cap, (st tr).cfg.schedCapacity = some cap → ((st tr).sched.map List.length).sum < cap) :=
  ⟨by decide, by decide, fun _ h => by cases h⟩

/-- `WriteChecksInOrder`: a busy transceiver; an idle one offered a malformed packet, a chunk size of 0, and a low line. -/
theorem witness_write_checks : (st writing).trx[0]? = some writing ∧ writing.state ≠ .idle ∧
    (st tr).trx[0]? = some tr ∧ tr.state = .idle ∧
    ¬(pk10.payload.length ≤ 255 ∧ pk10.frame.length.toNat = pk10.payload.length) ∧
    pk3.payload.length ≤ 255 ∧ pk3.frame.length.toNat = pk3.payload.length ∧
    (∃ c : Chunking, some (⟨0, 9⟩ : Chunking) = some c ∧ c.chunkWords = 0) ∧
    (∀ c : Chunking, some (⟨1, 9⟩ : Chunking) = some c → 1 ≤ c.chunkWords) ∧
    (∃ l ∈ [LineSample.mk true true, ⟨true, false⟩], l.lineA = false ∨ l.lineB = false) :=
  ⟨by decide, by decide, by decide, by decide, by decide, by decide, by decide, ⟨_, rfl, rfl⟩,
   fun c h => (by cases h; decide), by decide⟩

/-- `WriteAcceptedArmsTheTransmitter`: an instance at rest, a packet, both forms of chunking, high lines. -/
theorem witness_write_accepted : (st tr).trx[0]? = some tr ∧ tr.Inv (st tr).cfg ∧ tr.state = .idle ∧
    pk3.payload.length ≤ 255 ∧ pk3.frame.length.toNat = pk3.payload.length ∧
    (∀ c : Chunking, none = some c → 1 ≤ c.chunkWords) ∧
    (∀ c : Chunking, some (⟨1, 9⟩ : Chunking) = some c → 1 ≤ c.chunkWords) ∧
    (∀ l ∈ (st tr).lines, l.lineA = true ∧ l.lineB = true) :=
  ⟨by decide, inv_tr, by decide, by decide, by decide, fun _ h => (by cases h), fun c h => (by cases h; decide), by decide⟩

/-- `UnchunkedSequenceLayout` and `ChunkedSequenceLayout`: a payload of exactly the chunk size and of one word more. -/
theorem witness_sequences : pk8.frame.length.toNat = pk8.payload.length ∧
    (∀ d : Chunking, some (⟨5, 9⟩ : Chunking) = some d → 1 ≤ d.chunkWords ∧ pk8.payload.length ≤ d.chunkWords) ∧
    (1 ≤ 5 ∧ pk8.payload.length ≤ 5) ∧ (1 ≤ 4 ∧ 4 < pk8.payload.length) :=
  ⟨by decide, fun d h => (by cases h; decide), by decide, by decide⟩

/-- `LineCheckSeesALowLine`, `SnapshotReadsStateOnce`, `StartReadArmsCapture` (both clauses), `PrimitivesWriteTheirOwnFields`,
`PrimitivesReadTheirOwnFields`. -/
theorem witness_instance : (st tr).trx[0]? = some tr ∧ tr.poll = none ∧ tr.state = .idle ∧
    (st waiting).trx[0]? = some waiting ∧ waiting.state ≠ .idle := by decide

/-- `ActOnIdleAndWriteComplete`: a call open on each snapshot. -/
theorem witness_act_plain : ∀ snap ∈ [TState.idle, .writeComplete],
    (st (polled tr snap 7)).trx[0]? = some (polled tr snap 7) ∧ (polled tr snap 7).poll = some ⟨snap, 7⟩ := by decide

/-- `ActOnReadInProgress`: the buffer full and one below; the window ending now and one microsecond ago; the counter moved
and not moved. -/
theorem witness_act_reading :
    (polled reading .readInProgress 1401).poll = some ⟨.readInProgress, 1401⟩ ∧
    (st tr).cfg.rxBufferWords ≤ 258 ∧ 257 < (st tr).cfg.rxBufferWords ∧
    reading.rxCount < (st tr).cfg.rxBufferWords ∧ reading.rxCount = reading.lastProgress ∧
    reading.lastProgressTime.toNat + (st tr).cfg.interWordTimeoutUs < (1401 : Word64).toNat ∧
    (1400 : Word64).toNat ≤ reading.lastProgressTime.toNat + (st tr).cfg.interWordTimeoutUs ∧
    moving.rxCount ≠ moving.lastProgress := by decide

/-- `ActOnDeadline`: the deadline exactly now and one microsecond ago, for every snapshot of the branch, and none. -/
theorem witness_act_deadline :
    (∀ snap ∈ [TState.writeInProgress, .waitingForReadStart, .writeFailed, .readFailed],
      (polled writing snap 1039).poll = some ⟨snap, 1039⟩ ∧ (st (polled writing snap 1039)).trx[0]? = some (polled writing snap 1039)) ∧
    writing.deadline = some 1039 ∧ (1039 : Word64).toNat ≤ 1039 ∧ 1039 < (1040 : Word64).toNat ∧ tr.deadline = none := by
  decide

/-- `ActOnReadComplete`, `ActNeverReadsState`, `ResultsOfProcessEventsAreTheTable`: stores in their form with no word, the
frame word alone, one word too few, and exactly enough, the last of them still in the queue. -/
theorem witness_act_complete : ∀ t ∈ [complete [] [], complete [0x05002002] [], complete [0x05002002, 1, 0xA5A5A5A5] [],
      complete [0x05002002, 1, 0xA5A5A5A5] [0x26], complete [0x05002002, 1, 0xA5A5A5A5] [0x27]],
    (st (polled t .readComplete 7)).trx[0]? = some (polled t .readComplete 7) ∧
    (polled t .readComplete 7).poll = some ⟨.readComplete, 7⟩ ∧ (polled t .readComplete 7).storesWf (st tr).cfg := by decide

/-- `FailureLeavesTheTransceiverIdleAndStopped`: a write timed out. -/
theorem witness_failure : (st (polled writing .writeInProgress 1040)).trx[0]? = some (polled writing .writeInProgress 1040) ∧
    (polled writing .writeInProgress 1040).poll = some ⟨.writeInProgress, 1040⟩ ∧
    (polled writing .writeInProgress 1040).Inv (st tr).cfg :=
  ⟨by decide, by decide, inv_polled⟩

/-- `TxDoneHandlerEffect`: the sequence sent, with and without a response expected; one item short; not armed. -/
theorem witness_txdone : (∀ b, (sent b).txArmed = true ∧ (sent b).txPos = (sent b).txseq.length ∧ (sent b).respExpected = b) ∧
    { writing with txPos := 4 }.txPos ≠ writing.txseq.length ∧ tr.txArmed = false := by decide

/-- `RxSigHandlerEffect`: capture armed in each of the two states, armed in another, and not armed. -/
theorem witness_rxsig : waiting.rxArmed = true ∧ waiting.state = .waitingForReadStart ∧ reading.rxArmed = true ∧
    reading.state = .readInProgress ∧ { waiting with state := .idle }.state ≠ .waitingForReadStart ∧ tr.rxArmed = false := by
  decide

/-- `ShifterSendsTheNextItem`, `ShiftedBitsFollowTheWireBitOrder`: the first and the last item, a word, the checksum byte, no
item left, not armed. -/
theorem witness_shift : writing.txArmed = true ∧ writing.txseq[writing.txPos]? = some (.bitcount 72) ∧
    writing.txseq[4]? = some .trailer ∧ writing.txseq[1]? = some (.word 0x09200001) ∧
    writing.txseq[3]? = some (.crc 0x29) ∧ Cfg.default.wireBitOrder = .msbFirst ∧
    { Cfg.default with wireBitOrder := .lsbFirst }.wireBitOrder = .lsbFirst ∧ (sent true).txseq.length ≤ (sent true).txPos ∧ tr.txArmed = false := by decide

/-- `CaptureAndTransferEffect`, `WireWordsReachTheCaptureUnit`: armed and not; a word queued with one place left, and with
none; an empty queue; a tail with one stray bit. -/
theorem witness_capture : waiting.rxArmed = true ∧ tr.rxArmed = false ∧
    (complete [5] [6, 7]).rxFifo = 6 :: [7] ∧ (complete [5] [6, 7]).rxCount < (st tr).cfg.rxBufferWords ∧
    (complete [5] [6, 7]).rxbuf.length = (complete [5] [6, 7]).rxCount ∧
    257 < (st tr).cfg.rxBufferWords ∧ (st tr).cfg.rxBufferWords ≤ 258 ∧ tr.rxFifo = [] ∧
    (1 : BitVec 24) ≠ 0 := by decide

/-- `ResetLeavesTheMachineAtRest`, `FirstPollAfterResetReportsIdle`, `ResetSatisfiesInvariant`: an admissible configuration,
endpoints within it, the first and the last of two instances. -/
theorem witness_reset : Cfg.default.wf ∧ (∀ p ∈ [(0 : Byte), 3], p ≤ Cfg.default.maxPriority) ∧ 0 < 2 ∧ 1 < 2 ∧
    tr ∈ (State.resetWith Cfg.default [0, 3] 2).trx := by decide

/-- A `POPNEXT` about to be issued. -/
def popTurn : List Turn := [.issue ⟨.foreground, 9, [], .command 0x11 0 { x0 := .u64 9 }⟩]

theorem popTurn_ofTheBlock : turnsOfTheBlock popTurn := by
  intro r h
  simp only [popTurn, List.mem_cons, List.not_mem_nil, or_false, Turn.issue.injEq] at h
  subst h
  decide

/-- `StepKeepsInvariant`, `StepKeepsTheConfiguration`, `WireLogOnlyGrows`: a step from a state that satisfies the invariant. -/
theorem witness_step : (∃ s t : State, s.Inv ∧ step s = .next t ∧ (∀ rest, s.turns ≠ .reset :: rest) ∧
    s.trx[0]? = some tr ∧ t.trx[0]? = some tr) :=
  ⟨_, _, inv_reset 1 popTurn popTurn_ofTheBlock, rfl, fun _ h => (by cases h), rfl, rfl⟩

/-- `TransitionsOfStateAreTheTable`, `OperationsStayInTheirInstance`, `InstanceLearnsNothingFromTheRest`: an operation on an
instance of two and one on none, both with a next state, and machines that agree on one instance only. -/
theorem witness_exec : ∃ s t u : State, s.Inv ∧ exec (.startRead 1 5) s = .next t ∧ exec (.popnext 9) s = .next u ∧
    trxOf (.startRead 1 5) = some 1 ∧ trxOf (.popnext 9) = none ∧ s.trx[1]? = some tr ∧
    (t.trx[1]?.map (·.state)) = some .waitingForReadStart ∧
    ∃ s' : State, s' ≠ s ∧ s.cfg = s'.cfg ∧ s.time = s'.time ∧ s.lines = s'.lines ∧ s.draws = s'.draws ∧
      s.trx[1]? = s'.trx[1]? :=
  ⟨_, _, _, inv_reset 2 [] (fun _ h => by cases h), rfl, rfl, rfl, rfl, rfl, rfl,
    { State.resetWith Cfg.default [0, 1, 2, 3] 2 with nextId := 1 }, by decide, rfl, rfl, rfl, rfl, rfl⟩

/-- `StaleSnapshotOutcomes`: an instance for each row, polled at the deadline or the end of the window and one microsecond
after it, the handler at the same time or later; no deadline; the buffer full; the counter moved and not moved; two handlers;
and a state in which none comes. -/
theorem witness_stale :
    (∀ now ∈ [(1039 : Word64), 1040, 1400, 1401, 1530, 1531], now.toNat ≤ (1531 : Word64).toNat) ∧
    ((sent true).Inv Cfg.default ∧ (sent true).state = .writeInProgress ∧ (sent true).txPos = (sent true).txseq.length ∧
      (sent true).respExpected = true) ∧
    ((sent false).Inv Cfg.default ∧ (sent false).deadline = some 1039 ∧ (1039 : Word64).toNat ≤ 1039 ∧
      1039 < (1040 : Word64).toNat) ∧
    (waiting.Inv Cfg.default ∧ waiting.deadline = some 1530 ∧ { waiting with deadline := none }.Inv Cfg.default) ∧
    (full.Inv Cfg.default ∧ full.state = .readInProgress ∧ Cfg.default.rxBufferWords ≤ full.rxCount) ∧
    (reading.Inv Cfg.default ∧ reading.rxCount < Cfg.default.rxBufferWords ∧ reading.rxCount = reading.lastProgress ∧
      reading.lastProgressTime.toNat + Cfg.default.interWordTimeoutUs = 1400) ∧
    (moving.Inv Cfg.default ∧ moving.rxCount < Cfg.default.rxBufferWords ∧ moving.rxCount ≠ moving.lastProgress) ∧
    (tr.Inv Cfg.default ∧ tr.state ∈ [TState.idle, .writeComplete, .readComplete] ∧ tr.poll = none) ∧
    ∀ h ∈ [((1040 : Word64), Instr.evTxdone 0), (1041, .evRxsig 0)], h.2 = .evTxdone 0 ∨ h.2 = .evRxsig 0 :=
  ⟨by simp, ⟨inv_sent.1, by decide, by decide, by decide⟩, ⟨inv_sent.2, by decide, by decide, by decide⟩,
    ⟨inv_waiting, by decide, inv_listening⟩, ⟨inv_full, rfl, Nat.le_refl 258⟩, ⟨inv_reading, by decide, by decide, by decide⟩,
    ⟨inv_moving, by decide, by decide⟩, ⟨inv_tr, by decide, by decide⟩, by decide⟩

/-- `StepRunsThePresentedOperation`: a foreground command and an interrupt. -/
theorem witness_runs : ∃ r q : Request, decode r.port = .ok (.popnext 9) ∧ portIssuer r.port = r.agent ∧
    r.agent = .foreground ∧ decode q.port = .ok (.evTxdone 0) ∧ portIssuer q.port = q.agent ∧ q.agent ≠ .foreground :=
  ⟨⟨.foreground, 9, [], .command 0x11 0 { x0 := .u64 9 }⟩, ⟨.interrupt, 9, [], .command 0x40 0 {}⟩,
    rfl, by decide, rfl, rfl, by decide, by decide⟩

/-- `OpenCallEndsBeforeTheNextCommand`: an open call, the first and the last opcode of its class, and no turn. -/
theorem witness_open_call : State.openCall (st (polled writing .writeInProgress 7)) 0 = some ⟨.writeInProgress, 7⟩ ∧
    0x30 ≤ (0x30 : Byte).toNat ∧ (0x3F : Byte).toNat < 0x40 ∧ (st tr).turns = [] := by decide

/-- `ResetTurnRestoresEveryElement`, `AbsentInstancesAreRefused`: the reset turn; the first instance and endpoint past the
last. -/
theorem witness_absent : { (st waiting) with turns := [.reset] }.turns = .reset :: [] ∧
    trxOf (.hwTxStop 1) = some 1 ∧ (st tr).trx[1]? = none ∧ (st tr).endpoints[4]? = none := by decide

/-- `SingleBitErrorIsReported`: PE-14's frame, bit 0 of its last payload word and bit 8 of the frame word flipped. -/
theorem witness_single_bit : ∃ (ws : List Word32) (f c : Word32) (rest : List Word32) (q : Poll),
    q.snap = .readComplete ∧ ws = f :: rest ∧ rest.length = f.toNat % 256 ∧ c.setWidth 8 = checksumWords ws ∧
    ws[2]? = some 0xA5A5A5A5 ∧ ¬(2 = 0 ∧ 0 < 8) ∧ ws[0]? = some f ∧ ¬(0 = 0 ∧ 8 < 8) ∧
    (polled (complete (ws.set 2 (0xA5A5A5A5 ^^^ BitVec.twoPow 32 0) ++ [c]) []) .readComplete 7).poll = some q ∧
    (complete (ws.set 2 (0xA5A5A5A5 ^^^ BitVec.twoPow 32 0) ++ [c]) []).rxbuf = [0x05002002, 1, 0xA5A5A5A4, 0x26] :=
  ⟨[0x05002002, 1, 0xA5A5A5A5], 0x05002002, 0x26, [1, 0xA5A5A5A5], ⟨.readComplete, 7⟩, by decide⟩

/-- The wire symbols of PK-3's frame. -/
def symbols3 : List Symbol := (buildSequence pk3 (packetChecksum pk3) none).flatMap TxItem.symbols

/-- The captures of these symbols. -/
def captures3 : List Instr := (symbols3.flatMap Symbol.captured).map (.enRxCapture 1)

/-- `LoopedBackFrameValidates`: two instances at rest, a packet, no chunking and a chunk of one word; a transfer before any
capture and one after each. -/
theorem witness_loopback : ∃ s : State, s.Inv ∧ (0 : Nat) ≠ 1 ∧ s.trx[0]? = some tr ∧ s.trx[1]? = some tr ∧
    tr.state = .idle ∧ tr.poll = none ∧ (∀ l ∈ s.lines, l.lineA = true ∧ l.lineB = true) ∧
    pk3.payload.length ≤ 255 ∧ pk3.frame.length.toNat = pk3.payload.length ∧
    (∀ c : Chunking, none = some c → 1 ≤ c.chunkWords) ∧ (∀ c : Chunking, some (⟨1, 9⟩ : Chunking) = some c → 1 ≤ c.chunkWords) ∧
    (.enRxTransfer 1 :: captures3.flatMap fun i => [i, .enRxTransfer 1]).filter (fun i => decide (i ≠ .enRxTransfer 1)) =
      captures3 ∧ captures3 = [.enRxCapture 1 0x09200001, .enRxCapture 1 1, .enRxCapture 1 0x29] :=
  ⟨_, inv_reset 2 [] (fun _ h => by cases h), by decide, rfl, rfl, rfl, rfl, by decide, by decide, by decide,
    fun _ h => (by cases h), fun c h => (by cases h; decide), by decide, by decide⟩

end Sys2Proof.Tests
end

/-! SUPPORT. What an operation that answers a next state did, said once for all operations; the statements about steps rest
on it. -/

namespace Sys2Proof.Machine

/-- What an operation can do to the transceiver it acts on, `t` before it, in a machine that is `s`. -/
inductive TrxCase (s : State) (t : Trx) : Instr → Trx → Prop
  /-- An accepted `WRITE` (R201). -/
  | write (k : Nat) (p : Packet) (a : Bool) (tm : Word64) (ch : Option Chunking) (hs : t.state = .idle) :
      TrxCase s t (.write k p a tm ch) (t.acceptWrite s.cfg s.now p a tm ch)
  /-- An accepted `START_READ` (R212). -/
  | startRead (k : Nat) (tm : Word64) (hs : t.state = .idle) :
      TrxCase s t (.startRead k tm) (t.acceptRead s.cfg s.now tm)
  /-- The snapshot step (R216). -/
  | snapshot (k : Nat) (now : Word64) (hp : t.poll = none) : TrxCase s t (.processEvents k now) (t.snapshot now)
  /-- The act step of the open call `q` (R218). -/
  | act (k : Nat) (now : Word64) (q : Poll) (u : Trx) (hp : t.poll = some q) (hu : t.act s.cfg q = .ok u) :
      TrxCase s t (.processEvents k now) u
  /-- The transmit-complete handler (R262). -/
  | txDone (k : Nat) (he : t.txDoneEnabled = true) : TrxCase s t (.evTxdone k) (t.onTxDone s.cfg s.now)
  /-- The receive handler (R266). -/
  | rxSig (k : Nat) (he : t.captureEnabled = true) : TrxCase s t (.evRxsig k) (t.onRxSig s.time)
  /-- A step of the shifter (R268). -/
  | shift (k : Nat) : TrxCase s t (.enTxShift k) t.shift
  /-- A word comes off the bus (R270). -/
  | capture (k : Nat) (w : Word32) : TrxCase s t (.enRxCapture k w) (t.capture (offBus s.cfg w))
  /-- The front of a frame comes off the bus (R96, R270). -/
  | frameWord (k : Nat) (c r sd l : Byte) :
      TrxCase s t (.frameWord k c r sd l) (t.capture (offBus s.cfg (Frame.toWord ⟨c, r, sd, l⟩)))
  /-- The tail of a frame comes off the bus, as some word `w` (R68, R270). -/
  | checksumWord (k : Nat) (tail : Tail) (w : Word32) : TrxCase s t (.checksumWord k tail) (t.capture w)
  /-- A captured word is stored (R272). -/
  | transfer (k : Nat) : TrxCase s t (.enRxTransfer k) (t.transfer s.cfg)
  /-- The primitives that write (R280, R281, R283 to R285, R288). -/
  | hwTxStart (k : Nat) : TrxCase s t (.hwTxStart k) t.txStart
  | hwTxStop (k : Nat) : TrxCase s t (.hwTxStop k) t.txStop
  | hwRxPrepare (k : Nat) : TrxCase s t (.hwRxPrepare k) t.rxPrepare
  | hwRxStart (k : Nat) : TrxCase s t (.hwRxStart k) t.rxStart
  | hwRxStop (k : Nat) : TrxCase s t (.hwRxStop k) t.rxStop
  | hwDirSet (k : Nat) (d : Dir) : TrxCase s t (.hwDirSet k d) (t.dirSet d)

/-- What an operation that answers the next state `t` from `s` did. -/
inductive ExecCase (i : Instr) (s t : State) : Prop where
  /-- It wrote at most the result latches and the outcome. -/
  | reported (y : Results) (o : PortOutcome) (ht : t = { s with y := y, outcome := o })
  /-- It wrote the schedule, and kept its form. -/
  | scheduled (n : Word32) (sched : List (List Transmission)) (y : Results) (o : PortOutcome)
      (hw : schedWf s.cfg s.sched → schedWf s.cfg sched)
      (ht : t = { s with nextId := n, sched := sched, y := y, outcome := o })
  /-- It acted on transceiver `k`, `u` before and `v` after. -/
  | acted (k : Nat) (u v : Trx) (y : Results) (o : PortOutcome) (n : Nat) (hk : trxOf i = some k)
      (hu : s.trx[k]? = some u) (hv : TrxCase s u i v)
      (ht : t = { s with trx := s.trx.set k v, y := y, outcome := o, draws := n })

/-- A cancel command writes the schedule (R160). -/
theorem ExecCase.ofCancel (i : Instr) (s : State) (q : Transmission → Bool) : ExecCase i s (schedCancel s q) :=
  .scheduled s.nextId _ _ _ (fun hw => schedWf_remove hw q) rfl

/-- `ADD` writes the schedule (R152). -/
theorem ExecCase.ofAdd (i : Instr) {s t : State} {p : Byte} {r : SendRequest} (h : schedAdd s p r = .next t) :
    ExecCase i s t := by
  have hw := fun hw => schedWf_add hw h
  obtain ⟨-, -, rfl⟩ := schedAdd_next h
  exact .scheduled _ _ _ _ hw rfl

/-- Everything an operation that answers a next state can have done. -/
theorem exec_cases {i : Instr} {s t : State} (h : exec i s = .next t) : ExecCase i s t := by
  cases i with
  | pktGetCommand | pktGetRecipient | pktGetSender | pktValid | pktGetLength | pktFrameword | pktTotalbits | pktTxduration
  | pktChecksum | countRecipients | notifyStarted | notifyFailed | notifyCompleted =>
    cases h
    exact .reported _ _ rfl
  | cancelById | cancelByRecipient | cancelAll =>
    cases h
    exact .ofCancel _ _ _
  | add p r => exact .ofAdd _ h
  | popnext now =>
    simp only [exec, execPopnext] at h
    split at h
    · rename_i hd sched hp
      cases h
      exact .scheduled s.nextId sched _ _ (fun hw => schedWf_pop hw hp) rfl
    · cases h
      exact .reported _ _ rfl
  | nextCadence now period offset =>
    simp only [exec, execNextCadence] at h
    split at h
    · cases h
    · cases h
      exact .reported _ _ rfl
  | epAdd e r =>
    obtain ⟨p, -, h⟩ := onEndpoint_next h
    exact .ofAdd _ h
  | epCancelById | epCancelByRecipient | epCancelAll =>
    obtain ⟨p, -, h⟩ := onEndpoint_next h
    cases h
    exact .ofCancel _ _ _
  | epCountRecipients =>
    obtain ⟨p, -, h⟩ := onEndpoint_next h
    cases h
    exact .reported _ _ rfl
  | write k p a tm ch =>
    obtain ⟨u, hu, h⟩ := onTrx_next h
    split at h
    · cases h; exact .reported _ _ rfl
    · rename_i hs
      split at h
      · cases h
      · split at h
        · cases h
        · split at h
          · cases h; exact .reported _ _ rfl
          · cases h
            exact .acted k u _ _ _ s.draws rfl hu (.write k p a tm ch (not_not.1 hs)) rfl
  | startRead k tm =>
    obtain ⟨u, hu, h⟩ := onTrx_next h
    split at h
    · cases h; exact .reported _ _ rfl
    · rename_i hs
      cases h
      exact .acted k u _ _ _ s.draws rfl hu (.startRead k tm (not_not.1 hs)) rfl
  | processEvents k now =>
    obtain ⟨u, hu, h⟩ := onTrx_next h
    split at h
    · rename_i hp
      cases h
      exact .acted k u _ s.y s.outcome s.draws rfl hu (.snapshot k now hp) rfl
    · rename_i q hp
      split at h
      · rename_i v hv
        cases h
        exact .acted k u v _ _ s.draws rfl hu (.act k now q v hp hv) rfl
      · cases h
  | evTxdone k =>
    obtain ⟨u, hu, h⟩ := onTrx_next h
    split at h
    · rename_i he
      cases h
      exact .acted k u _ s.y s.outcome s.draws rfl hu (.txDone k he) rfl
    · cases h; exact .reported _ _ rfl
  | evRxsig k =>
    obtain ⟨u, hu, h⟩ := onTrx_next h
    split at h
    · rename_i he
      cases h
      exact .acted k u _ s.y s.outcome s.draws rfl hu (.rxSig k he) rfl
    · cases h; exact .reported _ _ rfl
  | checksumWord k tail =>
    obtain ⟨u, hu, h⟩ := onTrx_next h
    cases h
    obtain ⟨-, ht⟩ | ⟨ha, w, n, ht, -, -⟩ := s.captureTail_spec hu tail
    · rw [ht]; exact .reported _ _ rfl
    · have hw : { u with rxFifo := u.rxFifo ++ [w] } = u.capture w := by simp [Trx.capture, Trx.captureEnabled, ha]
      rw [ht, hw]
      exact .acted k u _ s.y s.outcome n rfl hu (.checksumWord k tail w) rfl
  | lineCheck | hwTxIsidle | hwRxIsidle | hwRxProgress =>
    obtain ⟨u, -, h⟩ := onTrx_next h
    cases h
    exact .reported _ _ rfl
  | enTxShift | enRxCapture | enRxTransfer | frameWord | hwTxStart | hwTxStop | hwRxPrepare | hwRxStart | hwRxStop
  | hwDirSet =>
    obtain ⟨u, hu, h⟩ := onTrx_next h
    cases h
    exact .acted _ u _ s.y s.outcome s.draws rfl hu (by constructor) rfl

end Sys2Proof.Machine

/-! SUPPORT. What the decoder reads from an opcode, who may issue it, and which commands an open call holds back (R91 to
R94, R200). -/

namespace Sys2Proof.Machine

/-- The operation `i` is one of the opcode `op`, on the transceiver `sel` where it acts on one (R92, R93). -/
def IsOfOpcode (op : Byte) (sel : Nat) (i : Instr) : Prop :=
  (∃ sel' x, encode i = .command op sel' x) ∧ ∀ k, trxOf i = some k → sel = k

/-- A latch is read into an operation of the opcode, whatever it holds. -/
theorem IsOfOpcode.of_map {α : Type} {op : Byte} {sel : Nat} {o : Option α} {f : α → Instr} {i : Instr}
    (hf : ∀ a, IsOfOpcode op sel (f a)) (h : typed (o.map f) = .ok i) : IsOfOpcode op sel i := by
  obtain ⟨a, -, rfl⟩ := Option.map_eq_some_iff.1 (typed_eq_ok.1 h)
  exact hf a

/-- A latch is read before the others, whatever it holds. -/
theorem IsOfOpcode.of_bind {α : Type} {op : Byte} {sel : Nat} {o : Option α} {f : α → Option Instr} {i : Instr}
    (hf : ∀ a, typed (f a) = .ok i → IsOfOpcode op sel i) (h : typed (o.bind f) = .ok i) : IsOfOpcode op sel i := by
  obtain ⟨a, -, ha⟩ := Option.bind_eq_some_iff.1 (typed_eq_ok.1 h)
  exact hf a (typed_eq_ok.2 ha)

/-- What the decoder reads from an opcode is an operation of that opcode (R92, R93). The rows of the opcode map are taken by
the number of latches they read: none, two, three, four, the reserved opcodes, and one for the rest. -/
theorem decodeCommand_isOfOpcode {op : Byte} {sel : Nat} {x : Operands} {i : Instr}
    (h : decodeCommand op sel x = .ok i) : IsOfOpcode op sel i := by
  unfold decodeCommand at h
  split at h
  case h_15 | h_21 | h_25 | h_26 | h_27 | h_28 | h_30 | h_31 | h_32 | h_33 | h_34 | h_35 | h_36 | h_37 | h_38 | h_40 =>
    cases h
    exact ⟨⟨_, _, rfl⟩, by simp [trxOf]⟩
  case h_10 | h_41 => exact .of_bind (fun _ => .of_map fun _ => ⟨⟨_, _, rfl⟩, by simp [trxOf]⟩) h
  case h_16 => exact .of_bind (fun _ => .of_bind fun _ => .of_map fun _ => ⟨⟨_, _, rfl⟩, by simp [trxOf]⟩) h
  case h_22 =>
    exact .of_bind (fun _ => .of_bind fun _ => .of_bind fun _ => .of_map fun _ => ⟨⟨_, _, rfl⟩, by simp [trxOf]⟩) h
  case h_43 => cases h
  all_goals exact .of_map (fun _ => ⟨⟨_, _, rfl⟩, by simp [trxOf]⟩) h

/-- The agent that may issue an operation (R91, R94). -/
def issuerOf (i : Instr) : Agent := portIssuer (encode i)

/-- What is presented may be issued by the agent that may issue the operation it is decoded as (R94). -/
theorem issuerOf_of_decode {p : Port} {i : Instr} (h : decode p = .ok i) : issuerOf i = portIssuer p := by
  cases p with
  | command op sel x =>
    obtain ⟨⟨sel', x', he⟩, -⟩ := decodeCommand_isOfOpcode h
    rw [issuerOf, he]
    rfl
  | wireFrame sel w | wireTail sel w =>
    cases h
    rfl

/-- The commands that take a transceiver out of `IDLE` (R201, R212). -/
def startsTransfer : Instr → Bool
  | .write _ _ _ _ _ => true
  | .startRead _ _ => true
  | _ => false

/-- These commands are presented by an opcode of the class of the transceiver commands, with the transceiver in the selector
(R91, R93). -/
theorem port_of_startsTransfer {p : Port} {i : Instr} {k : Nat} (h : decode p = .ok i) (hs : startsTransfer i = true)
    (hk : trxOf i = some k) : ∃ op x, p = .command op k x ∧ opClass op = 3 ∧ opIssuer op = .foreground := by
  cases p with
  | command op sel x =>
    obtain ⟨⟨sel', x', he⟩, hsel⟩ := decodeCommand_isOfOpcode h
    cases hsel k hk
    refine ⟨op, x, rfl, ?_⟩
    cases i with
    | write | startRead => cases he; decide
    | _ => cases hs
  | wireFrame sel w | wireTail sel w =>
    cases h
    cases hs

/-- A command that would start a transfer is run only where no call of its transceiver is open (R200). -/
theorem openCall_none_of_startsTransfer {r : Request} {s : State} {i : Instr} {k : Nat} (hd : decode r.port = .ok i)
    (ha : portIssuer r.port = r.agent) (hc : callInTheWay r s = none) (hs : startsTransfer i = true)
    (hk : trxOf i = some k) : s.openCall k = none := by
  obtain ⟨op, x, hp, h3, hf⟩ := port_of_startsTransfer hd hs hk
  have ha : r.agent = .foreground := by rw [← ha, hp, portIssuer, hf]
  simpa [callInTheWay, ha, hp, h3] using hc

end Sys2Proof.Machine

/-! SUPPORT. What the shifter, the transfers and the act step write, said once, with no premise on the stores. -/

namespace Sys2Proof.Machine

/-! ### What the shifter, a transfer, the drain and the act step can do -/

/-- The shifter moves on and adds to the wire, and does nothing else (R268). -/
theorem Trx.shift_frame (t : Trx) : ∃ n out, t.shift = { t with txPos := n, wireOut := t.wireOut ++ out } := by
  have hsame : t = { t with txPos := t.txPos, wireOut := t.wireOut ++ [] } := by rw [List.append_nil]
  unfold Trx.shift
  split
  · split
    · exact ⟨_, _, rfl⟩
    · exact ⟨_, _, hsame⟩
  · exact ⟨_, _, hsame⟩

/-- A transfer writes the receive stores and nothing else, whatever their form (R272). -/
theorem Trx.transfer_frame (c : Cfg) (t : Trx) : ∃ buf n fifo,
    t.transfer c = { t with rxbuf := buf, rxCount := n, rxFifo := fifo } := by
  unfold Trx.transfer
  split
  · exact ⟨_, _, _, rfl⟩
  · split <;> exact ⟨_, _, _, rfl⟩

/-- So do any number of them. -/
theorem Trx.transfers_frame (c : Cfg) : ∀ (n : Nat) (t : Trx), ∃ buf m fifo,
    Trx.transfers c n t = { t with rxbuf := buf, rxCount := m, rxFifo := fifo }
  | 0, _ => ⟨_, _, _, rfl⟩
  | n + 1, t => by
    obtain ⟨b, m, f, h⟩ := t.transfer_frame c
    obtain ⟨b', m', f', h'⟩ := Trx.transfers_frame c n (t.transfer c)
    exact ⟨b', m', f', by rw [Trx.transfers, h', h]⟩

/-- The drain writes the receive stores and nothing else, whatever their form (R224). -/
theorem Trx.drain_frame (c : Cfg) (t : Trx) : ∃ buf n fifo,
    t.drain c = { t with rxbuf := buf, rxCount := n, rxFifo := fifo } :=
  Trx.transfers_frame c _ t

/-- What the act step of the call `q` can leave of the transceiver `t` where it does not fault. -/
inductive ActCase (c : Cfg) (q : Poll) (t : Trx) : Trx → Prop
  /-- It reported the phase, and moved at most the progress marker (R220, R231, R235). -/
  | reported (n : Nat) (w : Word64) :
      ActCase c q t ({ t with lastProgress := n, lastProgressTime := w }.reportPhase q.snap)
  /-- The frame was validated (R224). -/
  | readDone (h : q.snap = .readComplete) (r : Res) : ActCase c q t ({ t.drain c with state := .idle }.finish r)
  /-- The write was over (R222). -/
  | writeDone (h : q.snap = .writeComplete) : ActCase c q t ({ t with state := .idle }.reportPhase .writeComplete)
  /-- The read failed (R229, R230, R233). -/
  | readFailed (h : q.snap = .waitingForReadStart ∨ q.snap = .readInProgress) (r : FailureReason) :
      ActCase c q t (t.rxStop.reportFailure .readFailed r)
  /-- The deadline of a write had passed (R234). -/
  | writeFailed : ActCase c q t ((t.txStop.rxStop.dirSet .input).reportFailure .writeFailed .timeout)

/-- What the branch of a read under way can do (R229 to R231). -/
theorem Trx.actReadInProgress_cases (c : Cfg) {q : Poll} (t : Trx) (h : q.snap = .readInProgress) :
    ActCase c q t (t.actReadInProgress c q.now) := by
  have hr := fun n w => ActCase.reported (c := c) (q := q) (t := t) n w
  rw [h] at hr
  unfold Trx.actReadInProgress
  split
  · exact .readFailed (.inr h) _
  · split
    · exact .readFailed (.inr h) _
    · split
      · exact hr t.lastProgress t.lastProgressTime
      · exact hr _ _

/-- What the branch that looks at the deadline can do (R232 to R235). -/
theorem Trx.actDeadline_cases (c : Cfg) (q : Poll) (t : Trx) : ActCase c q t (t.actDeadline q.now q.snap) := by
  unfold Trx.actDeadline
  split
  · split
    · exact .readFailed (.inl ‹_›) _
    · exact .writeFailed
  · exact .reported t.lastProgress t.lastProgressTime

/-- Everything an act step can have done (R218). -/
theorem Trx.act_cases {c : Cfg} {q : Poll} {t u : Trx} (h : t.act c q = .ok u) : ActCase c q t u := by
  have hd := t.actDeadline_cases c q
  unfold Trx.act at h
  split at h
  · rename_i hq
    unfold Trx.actReadComplete at h
    split at h
    · cases h; exact .readDone hq _
    · cases h
  · cases h; exact .writeDone ‹_›
  · cases h; exact t.actReadInProgress_cases c ‹_›
  · rename_i hq
    cases h
    have hr := ActCase.reported (c := c) (q := q) (t := t) t.lastProgress t.lastProgressTime
    rwa [hq] at hr
  all_goals
    rename_i hq
    cases h
    rwa [hq] at hd

end Sys2Proof.Machine

/-! SUPPORT. The invariant of R46: how a transceiver comes to satisfy it, and that every operation of the block keeps it. -/

namespace Sys2Proof.Machine

/-! ### Where the snapshot of an open call leads (R366) -/

theorem snapReaches_self {x : TState} (h : x ≠ .writeFailed ∧ x ≠ .readFailed) : snapReaches x x = true := by
  cases x <;> simp_all [snapReaches]

/-- The transmit-complete handler goes on from a write under way. -/
theorem snapReaches_of_txDone {x : TState} (h : snapReaches x .writeInProgress = true) :
    snapReaches x .waitingForReadStart = true ∧ snapReaches x .writeComplete = true := by
  cases x <;> simp_all [snapReaches]

/-- The receive handler goes on from a read that is waited for. -/
theorem snapReaches_of_frameStart {x : TState} (h : snapReaches x .waitingForReadStart = true) :
    snapReaches x .readInProgress = true := by
  cases x <;> simp_all [snapReaches]

/-- The receive handler goes on from a read under way. -/
theorem snapReaches_of_frameEnd {x : TState} (h : snapReaches x .readInProgress = true) :
    snapReaches x .readComplete = true := by
  cases x <;> simp_all [snapReaches]

/-- The snapshot of a read that is over is still the state. -/
theorem eq_of_snapReaches_readComplete {x : TState} (h : snapReaches .readComplete x = true) : x = .readComplete := by
  cases x <;> simp_all [snapReaches]

/-- The snapshot of a write that is over is still the state. -/
theorem eq_of_snapReaches_writeComplete {x : TState} (h : snapReaches .writeComplete x = true) : x = .writeComplete := by
  cases x <;> simp_all [snapReaches]

/-- From the snapshot of a read no write can be under way. -/
theorem reading_of_snapReaches {snap x : TState} (hs : snap = .waitingForReadStart ∨ snap = .readInProgress)
    (h : snapReaches snap x = true) :
    (x = .waitingForReadStart ∨ x = .readInProgress) ∨ x = .readComplete := by
  rcases hs with rfl | rfl <;> cases x <;> simp_all [snapReaches]

/-! ### What the invariant of a transceiver says of the arm flags -/

/-- Only a write that is under way has the shifter armed (R46). -/
theorem Trx.Inv.writing_of_txArmed {c : Cfg} {t : Trx} (hi : t.Inv c) (h : t.txArmed = true) :
    t.state = .writeInProgress := by
  obtain ⟨-, hidle, -, hread, hcomp, hfail, -, -⟩ := hi
  cases hs : t.state <;> simp_all

/-- Only a read that is waited for or under way has capture armed (R46). -/
theorem Trx.Inv.reading_of_rxArmed {c : Cfg} {t : Trx} (hi : t.Inv c) (h : t.rxArmed = true) :
    t.state = .waitingForReadStart ∨ t.state = .readInProgress := by
  obtain ⟨-, hidle, hwrite, -, hcomp, hfail, -, -⟩ := hi
  cases hs : t.state <;> simp_all

/-- Capture is prepared during a write only (R46). -/
theorem Trx.Inv.notPrepared {c : Cfg} {t : Trx} (hi : t.Inv c) (h : t.state ≠ .writeInProgress) :
    t.rxPrepared = false :=
  Bool.eq_false_iff.2 fun hp => h (hi.prepared hp).1

/-! ### Ways to the invariant of a transceiver -/

/-- A transceiver that is at rest or holds a finished operation, with both units stopped. -/
theorem Trx.Inv.of_stopped {c : Cfg} {t : Trx} (hs : t.storesWf c)
    (hst : t.state = .idle ∨ t.state = .writeComplete ∨ t.state = .readComplete) (htx : t.txArmed = false)
    (hrx : t.rxArmed = false) (hp : t.rxPrepared = false)
    (hq : ∀ q, t.poll = some q → snapReaches q.snap t.state = true) : t.Inv c where
  stores := hs
  idle _ := ⟨htx, hrx⟩
  writing h := by simp [h] at hst
  reading h := by rcases h with h | h <;> simp [h] at hst
  complete _ := ⟨htx, hrx⟩
  neverFailed := by rcases hst with h | h | h <;> simp [h]
  prepared h := by simp [hp] at h
  snapshot := hq

/-- A transceiver whose capture is armed for a read. -/
theorem Trx.Inv.of_reading {c : Cfg} {t : Trx} (hs : t.storesWf c)
    (hst : t.state = .waitingForReadStart ∨ t.state = .readInProgress) (hrx : t.rxArmed = true) (htx : t.txArmed = false)
    (hd : t.dir = .input) (hp : t.rxPrepared = false)
    (hq : ∀ q, t.poll = some q → snapReaches q.snap t.state = true) : t.Inv c where
  stores := hs
  idle h := by simp [h] at hst
  writing h := by simp [h] at hst
  reading _ := ⟨hrx, htx, hd⟩
  complete h := by rcases h with h | h <;> simp [h] at hst
  neverFailed := by rcases hst with h | h <;> simp [h]
  prepared h := by simp [hp] at h
  snapshot := hq

/-- A transceiver whose shifter is armed for a write. -/
theorem Trx.Inv.of_writing {c : Cfg} {t : Trx} (hs : t.storesWf c) (hst : t.state = .writeInProgress)
    (htx : t.txArmed = true) (hrx : t.rxArmed = false) (hd : t.dir = .output)
    (hp : t.rxPrepared = true → t.respExpected = true)
    (hq : ∀ q, t.poll = some q → snapReaches q.snap t.state = true) : t.Inv c where
  stores := hs
  idle h := by simp [hst] at h
  writing _ := ⟨htx, hrx, hd⟩
  reading h := by simp [hst] at h
  complete h := by simp [hst] at h
  neverFailed := by simp [hst]
  prepared h := ⟨hst, hp h⟩
  snapshot := hq

/-- What leaves `STATE`, the flags and the direction alone, and opens no call, keeps the invariant. -/
theorem Trx.Inv.of_control {c : Cfg} {t u : Trx} (hi : t.Inv c) (hs : u.storesWf c) (hst : u.state = t.state)
    (htx : u.txArmed = t.txArmed) (hrx : u.rxArmed = t.rxArmed) (hd : u.dir = t.dir) (hp : u.rxPrepared = t.rxPrepared)
    (hr : u.respExpected = t.respExpected) (hq : u.poll = t.poll ∨ u.poll = none) : u.Inv c where
  stores := hs
  idle := by rw [hst, htx, hrx]; exact hi.idle
  writing := by rw [hst, htx, hrx, hd]; exact hi.writing
  reading := by rw [hst, htx, hrx, hd]; exact hi.reading
  complete := by rw [hst, htx, hrx]; exact hi.complete
  neverFailed := by rw [hst]; exact hi.neverFailed
  prepared := by rw [hst, hp, hr]; exact hi.prepared
  snapshot := by
    intro q h
    rcases hq with hq | hq
    · rw [hst]; exact hi.snapshot q (hq ▸ h)
    · rw [hq] at h; cases h

/-! ### Every operation of the block keeps it -/

/-- A transceiver after reset satisfies the invariant (R350). -/
theorem Trx.inv_reset (c : Cfg) : (Trx.reset c).Inv c :=
  .of_stopped ⟨rfl, Nat.zero_le _, Nat.zero_le _⟩ (.inl rfl) rfl rfl rfl (fun _ h => by cases h)

/-- An accepted `WRITE` with no call open (R201, R208). -/
theorem Trx.inv_acceptWrite {c : Cfg} {t : Trx} (hi : t.Inv c) (hs : t.state = .idle) (hq : t.poll = none) (now : Nat)
    (p : Packet) (a : Bool) (tm : Word64) (ch : Option Chunking) : (t.acceptWrite c now p a tm ch).Inv c := by
  obtain ⟨-, hrx⟩ := hi.idle hs
  have hp := hi.notPrepared (by simp [hs])
  refine .of_writing (Trx.storesWf_acceptWrite hi.stores now p a tm ch) rfl ?_ ?_ rfl ?_ ?_
  all_goals cases a <;> simp [Trx.acceptWrite, hrx, hp, hq]

/-- An accepted `START_READ` with no call open (R212). -/
theorem Trx.inv_acceptRead {c : Cfg} {t : Trx} (hi : t.Inv c) (hs : t.state = .idle) (hq : t.poll = none) (now : Nat)
    (tm : Word64) : (t.acceptRead c now tm).Inv c :=
  .of_reading (Trx.storesWf_rxStart (t := t) hi.stores) (.inl rfl) rfl (hi.idle hs).1 rfl rfl (by simp [hq])

/-- The snapshot step (R216). -/
theorem Trx.inv_snapshot {c : Cfg} {t : Trx} (hi : t.Inv c) (now : Word64) : (t.snapshot now).Inv c :=
  { hi with
    snapshot := by
      intro q hq
      cases hq
      exact snapReaches_self hi.neverFailed }

/-- The transmit-complete handler, which comes at the end of a write (R262). -/
theorem Trx.inv_onTxDone {c : Cfg} {t : Trx} (hi : t.Inv c) (he : t.txDoneEnabled = true) (now : Nat) :
    (t.onTxDone c now).Inv c := by
  have hs := hi.writing_of_txArmed (Bool.and_eq_true_iff.1 he).1
  have hq := fun q h => snapReaches_of_txDone (hs ▸ hi.snapshot q h)
  unfold Trx.onTxDone
  split
  · exact .of_reading (Trx.storesWf_rxStart (t := t) hi.stores) (.inl rfl) rfl rfl rfl rfl fun q h => (hq q h).1
  · rename_i hr
    have hp : t.rxPrepared = false := Bool.eq_false_iff.2 fun h => hr (hi.prepared h).2
    exact .of_stopped hi.stores (.inr (.inl rfl)) rfl (hi.writing hs).2.1 hp fun q h => (hq q h).2

/-- The receive handler, which comes at the start and at the end of a frame (R266). -/
theorem Trx.inv_onRxSig {c : Cfg} {t : Trx} (hi : t.Inv c) (he : t.captureEnabled = true) (now : Word64) :
    (t.onRxSig now).Inv c := by
  obtain ⟨hrx, htx, hd⟩ := hi.reading (hi.reading_of_rxArmed he)
  unfold Trx.onRxSig
  split
  · rename_i hs
    exact .of_reading hi.stores (.inr rfl) hrx htx hd (hi.notPrepared (by simp [hs]))
      fun q h => snapReaches_of_frameStart (hs ▸ hi.snapshot q h)
  · rename_i hs
    exact .of_stopped hi.stores (.inr (.inr rfl)) htx rfl rfl fun q h => snapReaches_of_frameEnd (hs ▸ hi.snapshot q h)
  · exact hi

/-- A step of the shifter (R268). -/
theorem Trx.inv_shift {c : Cfg} {t : Trx} (hi : t.Inv c) : t.shift.Inv c := by
  have hs := Trx.storesWf_shift hi.stores
  obtain ⟨n, out, ht⟩ := t.shift_frame
  rw [ht] at hs ⊢
  exact hi.of_control hs rfl rfl rfl rfl rfl rfl (.inl rfl)

/-- A word off the bus (R270). -/
theorem Trx.inv_capture {c : Cfg} {t : Trx} (hi : t.Inv c) (w : Word32) : (t.capture w).Inv c := by
  unfold Trx.capture
  split
  · exact hi.of_control hi.stores rfl rfl rfl rfl rfl rfl (.inl rfl)
  · exact hi

/-- A transfer (R272). -/
theorem Trx.inv_transfer {c : Cfg} {t : Trx} (hi : t.Inv c) : (t.transfer c).Inv c := by
  have hs := Trx.storesWf_transfer hi.stores
  obtain ⟨b, n, f, ht⟩ := t.transfer_frame c
  rw [ht] at hs ⊢
  exact hi.of_control hs rfl rfl rfl rfl rfl rfl (.inl rfl)

/-- The act step of an open call (R218). -/
theorem Trx.inv_act {c : Cfg} {t u : Trx} {q : Poll} (hi : t.Inv c) (hq : t.poll = some q) (hu : t.act c q = .ok u) :
    u.Inv c := by
  have hsnap := hi.snapshot q hq
  cases Trx.act_cases hu with
  | reported n w => exact hi.of_control hi.stores rfl rfl rfl rfl rfl rfl (.inr rfl)
  | readDone h r =>
    have hs := eq_of_snapReaches_readComplete (h ▸ hsnap)
    obtain ⟨htx, hrx⟩ := hi.complete (.inr hs)
    have hst : ({ t.drain c with state := .idle }.finish r).storesWf c := Trx.storesWf_drain hi.stores
    obtain ⟨b, n, f, hd⟩ := t.drain_frame c
    rw [hd] at hst ⊢
    exact .of_stopped hst (.inl rfl) htx hrx (hi.notPrepared (by simp [hs])) (fun _ h => by cases h)
  | writeDone h =>
    have hs := eq_of_snapReaches_writeComplete (h ▸ hsnap)
    obtain ⟨htx, hrx⟩ := hi.complete (.inl hs)
    exact .of_stopped hi.stores (.inl rfl) htx hrx (hi.notPrepared (by simp [hs])) (fun _ h => by cases h)
  | readFailed h r =>
    have htx : t.txArmed = false := by
      rcases reading_of_snapReaches h hsnap with hs | hs
      · exact (hi.reading hs).2.1
      · exact (hi.complete (.inr hs)).1
    exact .of_stopped hi.stores (.inl rfl) htx rfl rfl (fun _ h => by cases h)
  | writeFailed => exact .of_stopped hi.stores (.inl rfl) rfl rfl rfl (fun _ h => by cases h)

/-- What an operation of the block does to the transceiver it acts on keeps the invariant, where a command that starts a
transfer finds no call open (R46, R200). -/
theorem TrxCase.inv {s : State} {t u : Trx} {i : Instr} (h : TrxCase s t i u) (hi : t.Inv s.cfg)
    (hb : issuerOf i ≠ .bench) (hc : startsTransfer i = true → t.poll = none) : u.Inv s.cfg := by
  cases h with
  | write k p a tm ch hs => exact Trx.inv_acceptWrite hi hs (hc rfl) _ p a tm ch
  | startRead k tm hs => exact Trx.inv_acceptRead hi hs (hc rfl) _ tm
  | snapshot k now hp => exact Trx.inv_snapshot hi now
  | act k now q u hp hu => exact Trx.inv_act hi hp hu
  | txDone k he => exact Trx.inv_onTxDone hi he _
  | rxSig k he => exact Trx.inv_onRxSig hi he _
  | shift k => exact Trx.inv_shift hi
  | capture | frameWord | checksumWord => exact Trx.inv_capture hi _
  | transfer k => exact Trx.inv_transfer hi
  | hwTxStart | hwTxStop | hwRxPrepare | hwRxStart | hwRxStop | hwDirSet => exact absurd rfl hb

/-! ### The machine -/

/-- The latches, the outcome, the inputs and the count of draws have no part in the invariant. -/
theorem State.Inv.of_frame {s t : State} (hi : s.Inv) (hcfg : t.cfg = s.cfg) (heps : t.endpoints = s.endpoints)
    (hsched : t.sched = s.sched) (htrx : t.trx = s.trx) (hturns : turnsOfTheBlock t.turns) : t.Inv where
  cfg := hcfg ▸ hi.cfg
  endpoints := by rw [hcfg, heps]; exact hi.endpoints
  sched := by rw [hcfg, hsched]; exact hi.sched
  trx := by rw [hcfg, htrx]; exact hi.trx
  turns := hturns

/-- The reset state satisfies the invariant (R46, R350). -/
theorem State.inv_resetWith {c : Cfg} {eps : List Byte} (n : Nat) (hc : c.wf) (he : ∀ p ∈ eps, p ≤ c.maxPriority) :
    (State.resetWith c eps n).Inv where
  cfg := hc
  endpoints := he
  sched := (Memory.wf_resetWith c eps n).1
  trx := fun t ht => List.eq_of_mem_replicate ht ▸ Trx.inv_reset c
  turns := fun _ h => by cases h

/-- An operation of the block keeps the invariant, where a command that starts a transfer finds no call open. -/
theorem exec_inv {i : Instr} {s t : State} (h : exec i s = .next t) (hi : s.Inv) (hb : issuerOf i ≠ .bench)
    (hc : startsTransfer i = true → ∀ k, trxOf i = some k → s.openCall k = none) : t.Inv := by
  cases exec_cases h with
  | reported y o ht => exact ht ▸ hi.of_frame rfl rfl rfl rfl hi.turns
  | scheduled n sched y o hw ht => exact ht ▸ { hi with sched := hw hi.sched }
  | acted k u v y o n hk hu hv ht =>
    have hq : startsTransfer i = true → u.poll = none := fun hs => by
      simpa [State.openCall, hu] using hc hs k hk
    have hinv := hv.inv (hi.trx u (List.mem_of_getElem? hu)) hb hq
    refine ht ▸ { hi with trx := fun w hw => ?_ }
    rcases List.mem_or_eq_of_mem_set hw with hw | rfl
    · exact hi.trx w hw
    · exact hinv

/-- The script stays one of the block when its first turn is taken. -/
theorem turnsOfTheBlock.tail {x : Turn} {rest : List Turn} (h : turnsOfTheBlock (x :: rest)) : turnsOfTheBlock rest :=
  fun r hr => h r (List.mem_cons_of_mem _ hr)

end Sys2Proof.Machine

/-! SUPPORT. What no operation writes, and the log of the wire, which operations only add to (R26, R40, R45). -/

namespace Sys2Proof.Machine

/-! ### What no step writes, and what it only adds to -/

/-- An operation leaves the configuration, the endpoints and the number of transceivers alone (R26, R45). -/
theorem exec_frame {i : Instr} {s t : State} (h : exec i s = .next t) :
    t.cfg = s.cfg ∧ t.endpoints = s.endpoints ∧ t.trx.length = s.trx.length := by
  cases exec_cases h with
  | reported _ _ ht | scheduled _ _ _ _ _ ht | acted _ _ _ _ _ _ _ _ _ ht => simp [ht]

/-- An act step puts nothing on the wire (R218). -/
theorem Trx.act_wireOut {c : Cfg} {q : Poll} {t u : Trx} (h : t.act c q = .ok u) : u.wireOut = t.wireOut := by
  cases Trx.act_cases h with
  | readDone =>
    obtain ⟨b, n, f, hd⟩ := t.drain_frame c
    simp [hd]
  | reported | writeDone | readFailed | writeFailed => rfl

/-- Whatever is done to a transceiver, its log of the wire is only added to (R40, R108). -/
theorem TrxCase.wireOut_grows {s : State} {t u : Trx} {i : Instr} (h : TrxCase s t i u) : t.wireOut <+: u.wireOut := by
  cases h with
  | write k p a tm ch hs => cases a <;> exact List.prefix_append _ _
  | hwTxStart k => exact List.prefix_append _ _
  | shift k =>
    obtain ⟨n, out, ht⟩ := t.shift_frame
    rw [ht]
    exact List.prefix_append _ _
  | act k now q u hp hu => rw [Trx.act_wireOut hu]
  | txDone k he => unfold Trx.onTxDone; split <;> exact List.prefix_rfl
  | rxSig k he => unfold Trx.onRxSig; split <;> exact List.prefix_rfl
  | capture | frameWord | checksumWord => unfold Trx.capture; split <;> exact List.prefix_rfl
  | transfer k =>
    obtain ⟨b, n, f, ht⟩ := t.transfer_frame s.cfg
    rw [ht]
  | startRead | snapshot | hwTxStop | hwRxPrepare | hwRxStart | hwRxStop | hwDirSet => exact List.prefix_rfl

/-- The log of every transceiver of `s` is the beginning of its log in `t` (R40). -/
def WireGrows (s t : State) : Prop :=
  ∀ (k : Nat) (u v : Trx), s.trx[k]? = some u → t.trx[k]? = some v → u.wireOut <+: v.wireOut

/-- Where no transceiver is written, no log is. -/
theorem WireGrows.of_trx_eq {s t : State} (h : t.trx = s.trx) : WireGrows s t := by
  intro k u v hu hv
  rw [h, hu] at hv
  cases hv
  exact List.prefix_rfl

/-- An operation only adds to the logs. -/
theorem exec_wireGrows {i : Instr} {s t : State} (h : exec i s = .next t) : WireGrows s t := by
  cases exec_cases h with
  | reported y o ht | scheduled n sched y o hw ht => exact .of_trx_eq (by rw [ht])
  | acted k u v y o n hk hu hv ht =>
    intro j a b ha hb
    rw [ht] at hb
    by_cases hj : k = j
    · subst hj
      rw [List.getElem?_set_self (List.getElem?_eq_some_iff.1 hu).1] at hb
      cases hb
      cases hu.symm.trans ha
      exact hv.wireOut_grows
    · rw [List.getElem?_set_ne hj, ha] at hb
      cases hb
      exact List.prefix_rfl

end Sys2Proof.Machine

/-! PROOFS. The statements about the state: its invariant, its configuration and its log of the wire. -/

namespace Sys2Proof.Machine

/-- Settles O46: the stores are empty, every transceiver is at rest, and no turn is left. -/
theorem resetSatisfiesInvariant : Obligations.ResetSatisfiesInvariant :=
  fun _ _ n hc he => State.inv_resetWith n hc he

/-- Settles O47, by the cases of a step: what takes a turn without running an operation leaves the stores alone, a reset
restores them, and an operation of the block keeps the invariant because the fetch admits no command that starts a transfer
while a call of its transceiver is open. -/
theorem stepKeepsInvariant : Obligations.StepKeepsInvariant := by
  intro s t hi h
  have hturns := hi.turns
  cases step_cases h with
  | rest _ ht => exact ht ▸ hi
  | reset rest h ht =>
    rw [h] at hturns
    exact ht ▸ (State.inv_resetWith _ hi.cfg hi.endpoints).of_frame rfl rfl rfl rfl hturns.tail
  | noCall k rest h _ ht =>
    rw [h] at hturns
    exact ht ▸ hi.of_frame rfl rfl rfl rfl hturns.tail
  | illegal r rest h ht =>
    rw [h] at hturns
    exact ht ▸ hi.of_frame (by simp) (by simp) (by simp) (by simp) (by simpa using hturns.tail)
  | issued r rest i h hd ha hc ht =>
    have hagent : r.agent ≠ .bench := hturns r (by simp [h])
    rw [h] at hturns
    refine exec_inv ht (hi.of_frame (by simp) (by simp) (by simp) (by simp) (by simpa using hturns.tail)) ?_ ?_
    · rw [issuerOf_of_decode hd, ha]
      exact hagent
    · intro hs k hk
      simpa [State.openCall] using openCall_none_of_startsTransfer hd ha hc hs hk
  | act k q turns h _ _ ht =>
    have hrest : turnsOfTheBlock turns := by
      rcases h with rfl | ⟨x, h, -⟩
      · exact hturns
      · exact (h ▸ hturns).tail
    exact exec_inv ht (hi.of_frame rfl rfl rfl rfl hrest) (fun hb => by cases hb) (fun hs => by cases hs)

/-- Settles O52, by the cases of a step. -/
theorem stepKeepsTheConfiguration : Obligations.StepKeepsTheConfiguration := by
  intro s t h
  cases step_cases h with
  | rest _ ht | noCall _ _ _ _ ht | illegal _ _ _ ht => simp [ht]
  | reset rest h ht => simp [ht, applyReset, State.resetWith]
  | issued _ _ _ _ _ _ _ ht | act _ _ _ _ _ _ ht => simpa using exec_frame ht

/-- Settles O53, by the cases of a step. -/
theorem wireLogOnlyGrows : Obligations.WireLogOnlyGrows := by
  intro s t k u v h hn
  suffices hg : WireGrows s t from hg k u v
  cases step_cases h with
  | rest _ ht | noCall _ _ _ _ ht | illegal _ _ _ ht => exact .of_trx_eq (by simp [ht])
  | reset rest h _ => exact absurd h (hn rest)
  | issued r rest i h hd ha hc ht =>
    have hg := exec_wireGrows ht
    simpa [WireGrows] using hg
  | act k q turns h _ hc ht =>
    have hg := exec_wireGrows ht
    exact hg

end Sys2Proof.Machine

/-! SUPPORT. The order of the bits on the bus, the checksum as one exclusive-or of bytes, and the step that runs what is
presented (R66, R67, R73). -/

namespace Sys2Proof.Machine

/-! ### The serializer -/

/-- The serializer shifts each bit of a value once (R67). -/
@[simp] theorem serialize_length (o : WireBitOrder) {n : Nat} (v : BitVec n) : (serialize o v).length = n := by
  cases o <;> simp [serialize]

/-- `lsb_first` shifts bit 0 first (R67). -/
theorem serialize_lsbFirst_getElem? {n i : Nat} (v : BitVec n) (hi : i < n) :
    (serialize .lsbFirst v)[i]? = some (v.getLsbD i) := by
  simp [serialize, hi]

/-- `msb_first` shifts the highest bit first (R67). -/
theorem serialize_msbFirst_getElem? {n i : Nat} (v : BitVec n) (hi : i < n) :
    (serialize .msbFirst v)[i]? = some (v.getLsbD (n - 1 - i)) := by
  have hlen : i < (List.ofFn fun i : Fin n => v.getLsbD i).length := by simpa using hi
  rw [serialize, List.getElem?_reverse hlen, List.length_ofFn]
  exact serialize_lsbFirst_getElem? v (by omega)

/-- What is reassembled in the order it was shifted in is the value, zero-extended: the capture off the bus in a
configuration of that order (R67, R68). -/
theorem reassemble_serialize_toNat (o : WireBitOrder) {n : Nat} (v : BitVec n) :
    (reassemble o (serialize o v)).toNat = v.toNat % 2 ^ 32 :=
  offBus_toNat { Cfg.default with wireBitOrder := o } v

/-! ### The checksum -/

/-- The exclusive-or of a list of bytes. -/
def xorBytes (bs : List Byte) : Byte := bs.foldl (· ^^^ ·) 0

/-- The exclusive-or does not depend on the order of the bytes. -/
theorem xorBytes_perm {bs cs : List Byte} (h : bs.Perm cs) : xorBytes bs = xorBytes cs := h.foldl_op_eq

open BitVec in
/-- `xor8` of four bytes put together is their exclusive-or (R130). -/
theorem xor8_append (a b c d : Byte) : xor8 (a ++ b ++ c ++ d) = xorBytes [a, b, c, d] := by
  have ha : (a ++ b ++ c ++ d).extractLsb' 24 8 = a := by
    rw [extractLsb'_append_eq_of_le (by decide), extractLsb'_append_eq_of_le (by decide),
      extractLsb'_append_eq_of_le (by decide)]
    exact extractLsb'_eq_self
  have hb : (a ++ b ++ c ++ d).extractLsb' 16 8 = b := by
    rw [extractLsb'_append_eq_of_le (by decide), extractLsb'_append_eq_of_le (by decide)]
    exact extractLsb'_append_eq_right
  have hc : (a ++ b ++ c ++ d).extractLsb' 8 8 = c := by
    rw [extractLsb'_append_eq_of_le (by decide)]
    exact extractLsb'_append_eq_right
  have hd : (a ++ b ++ c ++ d).extractLsb' 0 8 = d := extractLsb'_append_eq_right
  simp [xor8, xorBytes, ha, hb, hc, hd]

/-- The checksum is the exclusive-or of what `xor8` makes of each word (R130). -/
theorem checksumWords_eq_xorBytes (ws : List Word32) : checksumWords ws = xorBytes (ws.map xor8) :=
  List.foldl_map.symm

/-! ### The operation that is presented -/

/-- An operation of a transceiver command's opcode acts on the selected transceiver (R91, R93). -/
theorem IsOfOpcode.trxOf_eq {op : Byte} {sel : Nat} {i : Instr} (h : IsOfOpcode op sel i) (h3 : opClass op = 3) :
    trxOf i = some sel := by
  obtain ⟨⟨sel', x, he⟩, hsel⟩ := h
  cases i with
  | write k | startRead k | processEvents k | lineCheck k => rw [hsel k rfl]; rfl
  | _ => cases he <;> cases h3

/-- No call stands in the way of an operation where none of the transceiver it acts on is open (R200). -/
theorem callInTheWay_eq_none {r : Request} {s : State} {i : Instr} (hd : decode r.port = .ok i)
    (ho : ∀ k, trxOf i = some k → r.agent = .foreground → s.openCall k = none) : callInTheWay r s = none := by
  unfold callInTheWay
  split
  · rename_i op sel x ha hp
    rw [hp] at hd
    refine if_neg fun ⟨h3, hopen⟩ => ?_
    rw [ho sel ((decodeCommand_isOfOpcode hd).trxOf_eq h3) ha] at hopen
    cases hopen
  · rfl

/-- Where no call stands in its way, what is presented by the agent that may issue it is run, the port loaded (R73). -/
theorem step_issue {s : State} {r : Request} {rest : List Turn} {i : Instr} (h : s.turns = .issue r :: rest)
    (hc : callInTheWay r s = none) (ha : portIssuer r.port = r.agent) (hd : decode r.port = .ok i) :
    step s = exec i (loadPort r { s with turns := rest }) := by
  simp [step, nextMove, h, hc, fetch, ha, hd]

/-- The foreground's opcode, selector and operands are loaded into the port's latches (R90). -/
theorem loadPort_foreground {r : Request} {op : Byte} {sel : Nat} {x : Operands} (ha : r.agent = .foreground)
    (hp : r.port = .command op sel x) (s : State) :
    loadPort r s = { s with time := r.time, lines := r.lines, op := op, sel := sel, x := x } := by
  simp [loadPort, ha, hp]

/-- The other agents leave the port's latches alone (R91). -/
theorem loadPort_of_ne_foreground {r : Request} (ha : r.agent ≠ .foreground) (s : State) :
    loadPort r s = { s with time := r.time, lines := r.lines } := by
  unfold loadPort
  split
  · exact absurd ‹_› ha
  · rfl

end Sys2Proof.Machine

/-! PROOFS. The statements about the memory: the order of the bits, the order of the bytes, and the order of the steps. -/

namespace Sys2Proof.Machine

/-- Settles O54: no call stands in the way, so the step is the operation run with the port loaded, and what is loaded depends
on the agent. -/
theorem stepRunsThePresentedOperation : Obligations.StepRunsThePresentedOperation := by
  intro s r rest i h hd ha ho
  have hstep := step_issue h (callInTheWay_eq_none hd ho) ha hd
  refine ⟨fun op sel x hf hp => ?_, fun hn => ?_⟩
  · rw [hstep, loadPort_foreground hf hp]
  · rw [hstep, loadPort_of_ne_foreground hn]

/-- Settles O5: the place of each bit in either order, at the two widths, and the reassembly as a capture off the bus. -/
theorem reassembleIsTheInverseOfSerialize : Obligations.ReassembleIsTheInverseOfSerialize := by
  refine ⟨fun w => ⟨serialize_length _ w, serialize_length _ w, fun i hi => ?_⟩,
    fun c => ⟨serialize_length _ c, serialize_length _ c, fun i hi => ?_⟩, fun o => ⟨fun w => ?_, fun c => ?_⟩⟩
  · exact ⟨serialize_msbFirst_getElem? w hi, serialize_lsbFirst_getElem? w hi⟩
  · exact ⟨serialize_msbFirst_getElem? c hi, serialize_lsbFirst_getElem? c hi⟩
  · exact BitVec.eq_of_toNat_eq (by rw [reassemble_serialize_toNat]; omega)
  · rw [reassemble_serialize_toNat]
    omega

/-- Settles O11: both are an exclusive-or of bytes, over the words of the sequence and over the bytes of the word. -/
theorem checksumIgnoresOrder : Obligations.ChecksumIgnoresOrder := by
  refine ⟨fun ws vs h => ?_, fun a b c d e f g k h => ?_⟩
  · rw [checksumWords_eq_xorBytes, checksumWords_eq_xorBytes, xorBytes_perm (h.map xor8)]
  · rw [xor8_append, xor8_append, xorBytes_perm h]

end Sys2Proof.Machine

/-! SUPPORT. What the opcodes are decoded as and who may issue them, the shape of the transmit sequence, the bits a step of
the shifter puts on the bus, and what the capture unit takes off it (R92, R94, R105, R106, R268, R270). -/

namespace Sys2Proof.Machine

/-! ### The opcodes -/

/-- The direction operand is read back as it was encoded (R102). -/
@[simp] theorem dirOfBit_dirBit (d : Dir) : dirOfBit (dirBit d) = d := by
  cases d <;> rfl

/-- A row of the opcode map rejects no operation as reserved (R93, R94). -/
theorem typed_ne_reservedOpcode (o : Option Instr) : typed o ≠ .error .reservedOpcode := by
  cases o <;> simp [typed]

/-- The opcodes with a row in R92. -/
def tableOpcodes : List Nat :=
  [0x01, 0x02, 0x03, 0x04, 0x05, 0x06, 0x07, 0x08, 0x09, 0x10, 0x11, 0x12, 0x13, 0x14, 0x15, 0x16,
    0x20, 0x22, 0x23, 0x24, 0x25, 0x30, 0x31, 0x32, 0x33, 0x40, 0x41, 0x48, 0x49, 0x4A,
    0x50, 0x51, 0x52, 0x54, 0x55, 0x56, 0x57, 0x58, 0x59, 0x60, 0x61, 0x62]

/-- Those of them that are the foreground's commands (R91). -/
def foregroundOpcodes : List Nat :=
  [0x01, 0x02, 0x03, 0x04, 0x05, 0x06, 0x07, 0x08, 0x09, 0x10, 0x11, 0x12, 0x13, 0x14, 0x15, 0x16,
    0x20, 0x22, 0x23, 0x24, 0x25, 0x30, 0x31, 0x32]

/-- The decoder rejects as reserved exactly the opcodes without a row in R92 (R94). -/
theorem decodeCommand_eq_reservedOpcode_iff (op : Byte) (sel : Nat) (x : Operands) :
    decodeCommand op sel x = .error .reservedOpcode ↔ op.toNat ∉ tableOpcodes := by
  unfold decodeCommand tableOpcodes
  split
  case h_43 => simp_all [← BitVec.toNat_inj]
  all_goals simp [typed_ne_reservedOpcode]

/-- The foreground may not issue the line check, nor an opcode of the classes of the events and the environment, the
primitives and the callbacks (R91, R94). -/
theorem ne_of_opIssuer_foreground {op : Byte} (h : opIssuer op = .foreground) :
    op ≠ 0x33#8 ∧ opClass op ≠ 4 ∧ opClass op ≠ 5 ∧ opClass op ≠ 6 := by
  unfold opIssuer at h
  split at h
  · cases h
  · split at h
    · split at h
      · cases h
      · split at h <;> cases h
    · split at h
      · cases h
      · split at h
        · cases h
        · exact ⟨‹_›, ‹_›, ‹_›, ‹_›⟩

/-- An opcode the foreground may issue and that is not one of its commands is reserved (R92, R94). -/
theorem decodeCommand_of_opIssuer_foreground {op : Byte} (h : opIssuer op = .foreground)
    (hop : op.toNat ∉ foregroundOpcodes) (sel : Nat) (x : Operands) :
    decodeCommand op sel x = .error .reservedOpcode := by
  obtain ⟨h33, h4, h5, h6⟩ := ne_of_opIssuer_foreground h
  rw [decodeCommand_eq_reservedOpcode_iff]
  simp only [opClass, tableOpcodes, foregroundOpcodes, ne_eq, ← BitVec.toNat_inj, BitVec.toNat_ofNat, List.mem_cons,
    List.not_mem_nil, or_false, not_or] at *
  omega

/-- No call stands in the way where none of the selected transceiver is open (R200). -/
theorem callInTheWay_command {r : Request} {op : Byte} {sel : Nat} {x : Operands} {s : State}
    (hp : r.port = .command op sel x) (ho : s.openCall sel = none) : callInTheWay r s = none := by
  unfold callInTheWay
  split
  · rename_i hq
    cases hp.symm.trans hq
    simp [ho]
  · rfl

/-- What no row assigns, or what this agent may not issue, is an illegal operation (R94, R314). -/
theorem step_illegal {s : State} {r : Request} {rest : List Turn} (h : s.turns = .issue r :: rest)
    (hc : callInTheWay r s = none) (hd : portIssuer r.port = r.agent → decode r.port = .error .reservedOpcode) :
    step s = .next (loadPort r { s with turns := rest }).illegal := by
  by_cases ha : portIssuer r.port = r.agent
  · simp [step, nextMove, h, hc, fetch, ha, hd ha]
  · simp [step, nextMove, h, hc, fetch, ha]

/-! ### Transceivers that do not exist -/

/-- An operation on a transceiver that does not exist is refused, whichever operation it is (R93, R361). -/
theorem exec_of_absent {i : Instr} {s : State} {k : Nat} (hk : trxOf i = some k) (hs : s.trx[k]? = none) :
    exec i s = .refused .noSuchTransceiver := by
  cases i with
  | write | startRead | processEvents | lineCheck | evTxdone | evRxsig | enTxShift | enRxCapture | enRxTransfer | hwTxStart
  | hwTxStop | hwTxIsidle | hwRxPrepare | hwRxStart | hwRxStop | hwRxIsidle | hwRxProgress | hwDirSet | frameWord
  | checksumWord =>
    cases hk
    exact onTrx_none hs _
  | _ => cases hk

/-! ### The transmit sequence -/

/-- A payload that fits one chunk is one chunk (R106). -/
theorem chunkCount_eq_one {len : Nat} {ch : Option Chunking}
    (h : ∀ d, ch = some d → 1 ≤ d.chunkWords ∧ len ≤ d.chunkWords) : chunkCount len ch = 1 := by
  cases ch with
  | none => rfl
  | some d =>
    obtain ⟨hpos, hlen⟩ := h d rfl
    obtain ⟨-, hlt⟩ := ceilDiv_spec len hpos
    have : ceilDiv len d.chunkWords < 2 := by
      by_contra hge
      have := Nat.mul_le_mul_left d.chunkWords (not_lt.1 hge)
      omega
    simp only [chunkCount]
    omega

/-- A payload that fits one chunk is the words of that chunk (R106). -/
theorem chunkWordsOf_zero {payload : List Word32} {ch : Option Chunking}
    (h : ∀ d, ch = some d → payload.length ≤ d.chunkWords) : chunkWordsOf payload 0 ch = payload := by
  cases ch with
  | none => rfl
  | some d => simp [chunkWordsOf, h d rfl]

/-- The sequence of a payload that fits one chunk (R105, R106). -/
theorem buildSequence_of_fits {p : Packet} (c : Byte) {ch : Option Chunking} (hl : p.frame.length.toNat = p.payload.length)
    (h : ∀ d, ch = some d → 1 ≤ d.chunkWords ∧ p.payload.length ≤ d.chunkWords) : buildSequence p c ch =
      .bitcount (32 * (1 + p.payload.length) + 8) :: .word p.frame.toWord :: p.payload.map .word ++ [.crc c, .trailer] := by
  simp [buildSequence, hl, chunkCount_eq_one h, chunkItems, chunkWordsOf_zero fun d hd => (h d hd).2, Nat.add_comm]

/-- The group of chunk `j`: the payload words it carries (R106). -/
abbrev chunkGroup (payload : List Word32) (d : Chunking) (j : Nat) : List Word32 := chunkWordsOf payload j (some d)

/-- The first `m` groups are the first `m * chunkWords` words of the payload (R106). -/
theorem flatten_chunkGroups (payload : List Word32) (d : Chunking) (m : Nat) :
    ((List.range m).map (chunkGroup payload d)).flatten = payload.take (m * d.chunkWords) := by
  induction m with
  | zero => simp
  | succ m ih => simp [List.range_succ, ih, chunkGroup, chunkWordsOf, Nat.add_mul, List.take_add]

/-- A payload longer than one chunk is split into two chunks or more, the last of which has a word and is no longer than the
others (R106). -/
theorem chunkCount_of_longer {len : Nat} {d : Chunking} (hpos : 1 ≤ d.chunkWords) (hlen : d.chunkWords < len) :
    ∃ m, chunkCount len (some d) = m + 2 ∧ (m + 1) * d.chunkWords < len ∧ len ≤ (m + 2) * d.chunkWords := by
  obtain ⟨hle, hlt⟩ := ceilDiv_spec len hpos
  have hge : 2 ≤ ceilDiv len d.chunkWords := by
    by_contra hlt2
    have := Nat.mul_le_mul_left d.chunkWords (show ceilDiv len d.chunkWords ≤ 1 by omega)
    omega
  obtain ⟨m, hm⟩ := Nat.exists_eq_add_of_le' hge
  rw [hm] at hle hlt
  refine ⟨m, by simp [chunkCount, hm], ?_, by rwa [Nat.mul_comm]⟩
  have : d.chunkWords * (m + 2) = (m + 1) * d.chunkWords + d.chunkWords := by ring
  omega

/-- A chunk with whole words after it has the chunk size (R106). -/
theorem chunkGroup_length {payload : List Word32} {d : Chunking} {j : Nat}
    (h : (j + 1) * d.chunkWords ≤ payload.length) : (chunkGroup payload d j).length = d.chunkWords := by
  rw [Nat.add_mul] at h
  simp only [chunkWordsOf, List.length_take, List.length_drop]
  omega

/-- The last group is what is left of the payload (R106). -/
theorem chunkGroup_eq_drop {payload : List Word32} {d : Chunking} {j : Nat} (h : payload.length ≤ (j + 1) * d.chunkWords) :
    chunkGroup payload d j = payload.drop (j * d.chunkWords) := by
  rw [Nat.add_mul] at h
  refine List.take_of_length_le ?_
  rw [List.length_drop]
  omega

/-- The first of several chunks: the frame word and its group, and no checksum (R106). -/
theorem chunkItems_first (p : Packet) (c : Byte) (d : Chunking) (m : Nat) : chunkItems p c (some d) (m + 2) 0 =
    .bitcount (32 * (1 + (chunkGroup p.payload d 0).length)) :: .word p.frame.toWord ::
      (chunkGroup p.payload d 0).map .word := by
  simp [chunkItems, Nat.add_comm]

/-- A chunk between the first and the last: the re-entry marker, its own header, and its group (R106). -/
theorem chunkItems_middle (p : Packet) (c : Byte) (d : Chunking) {n j : Nat} (h : j + 2 ≠ n) :
    chunkItems p c (some d) n (j + 1) =
      .reentry :: .bitcount (32 * (chunkGroup p.payload d (j + 1)).length) :: .delaycount d.delayCount ::
        (chunkGroup p.payload d (j + 1)).map .word := by
  simp [chunkItems, chunkDelay, h]

/-- The last of several chunks: it carries the checksum and the trailer as well (R106). -/
theorem chunkItems_last (p : Packet) (c : Byte) (d : Chunking) (m : Nat) :
    chunkItems p c (some d) (m + 2) (m + 1) =
      (.reentry :: .bitcount (32 * (chunkGroup p.payload d (m + 1)).length + 8) :: .delaycount d.delayCount ::
        (chunkGroup p.payload d (m + 1)).map .word) ++ [.crc c, .trailer] := by
  simp [chunkItems, chunkDelay]

/-- Several chunks in order: the first, those between, and the last (R204). -/
theorem flatMap_range_add_two {α : Type} (f : Nat → List α) (m : Nat) : (List.range (m + 2)).flatMap f =
    f 0 ++ (List.range m).flatMap (fun j => f (j + 1)) ++ f (m + 1) := by
  rw [List.range_succ, List.range_succ_eq_map]
  simp [List.flatMap_map]

/-- The sequence of several chunks (R106, R204). -/
theorem buildSequence_of_chunks {p : Packet} {d : Chunking} {m : Nat} (c : Byte)
    (h : chunkCount p.frame.length.toNat (some d) = m + 2) : buildSequence p c (some d) =
      chunkItems p c (some d) (m + 2) 0 ++
      (List.range m).flatMap (fun j => chunkItems p c (some d) (m + 2) (j + 1)) ++
      chunkItems p c (some d) (m + 2) (m + 1) := by
  rw [buildSequence, h, flatMap_range_add_two]

/-! ### The bits on the bus -/

/-- A step of the armed shifter sends the symbols of its item (R268). -/
theorem Trx.shift_of_armed {t : Trx} {item : TxItem} (ha : t.txArmed = true) (hi : t.txseq[t.txPos]? = some item) :
    t.shift = { t with wireOut := t.wireOut ++ item.symbols, txPos := t.txPos + 1 } := by
  simp [Trx.shift, Trx.txRead, ha, hi]

/-- Where each bit of a value is among those the serializer shifts, in either order (R67). -/
theorem serialize_order (o : WireBitOrder) {n : Nat} (v : BitVec n) : (serialize o v).length = n ∧ ∀ i, i < n →
    (o = .msbFirst → (serialize o v)[i]? = some (v.getLsbD (n - 1 - i))) ∧
    (o = .lsbFirst → (serialize o v)[i]? = some (v.getLsbD i)) :=
  ⟨serialize_length o v, fun _ hi =>
    ⟨fun ho => ho ▸ serialize_msbFirst_getElem? v hi, fun ho => ho ▸ serialize_lsbFirst_getElem? v hi⟩⟩

/-! ### The capture unit -/

/-- An armed capture unit appends the word to its queue (R270). -/
theorem Trx.capture_of_armed {t : Trx} (h : t.rxArmed = true) (w : Word32) :
    t.capture w = { t with rxFifo := t.rxFifo ++ [w] } := by
  simp [Trx.capture, Trx.captureEnabled, h]

/-- A capture unit that is not armed has no effect (log entry 19). -/
theorem Trx.capture_of_not_armed {t : Trx} (h : t.rxArmed = false) (w : Word32) : t.capture w = t := by
  simp [Trx.capture, Trx.captureEnabled, h]

/-- The tail of a frame at an armed capture unit: one word joins the queue (R68, R270). -/
theorem State.captureTail_of_armed (s : State) {k : Nat} {t : Trx} (hk : s.trx[k]? = some t) (ha : t.rxArmed = true)
    (tail : Tail) : ∃ w n, s.captureTail k t tail = { s.setTrx k { t with rxFifo := t.rxFifo ++ [w] } with draws := n } ∧
      (tail.isByte = true → w = checksumToWord tail.checksum ∧ n = s.draws) ∧
      (tail.isByte = false → n = s.draws + 1) := by
  obtain ⟨hn, -⟩ | ⟨-, h⟩ := s.captureTail_spec hk tail
  · rw [ha] at hn
    cases hn
  · exact h

/-- The tail of a frame at a capture unit that is not armed has no effect (log entry 19). -/
theorem State.captureTail_of_not_armed (s : State) {k : Nat} {t : Trx} (hk : s.trx[k]? = some t) (ha : t.rxArmed = false)
    (tail : Tail) : s.captureTail k t tail = s := by
  obtain ⟨-, h⟩ | ⟨hy, -⟩ := s.captureTail_spec hk tail
  · exact h
  · rw [ha] at hy
    cases hy

/-- The frame word of four fields is the number R96 lays out. -/
theorem toWord_eq_ofNat (c r n l : Byte) : Frame.toWord ⟨c, r, n, l⟩ =
    BitVec.ofNat 32 (c.toNat * 2 ^ 24 + r.toNat * 2 ^ 16 + n.toNat * 2 ^ 8 + l.toNat) := by
  rw [← Frame.toWord_toNat ⟨c, r, n, l⟩, BitVec.ofNat_toNat, BitVec.setWidth_eq]

/-- The word of a checksum byte is the number R68 lays out. -/
theorem checksumToWord_eq_ofNat (c : Byte) : checksumToWord c = BitVec.ofNat 32 c.toNat :=
  (BitVec.ofNat_toNat 32 c).symm

end Sys2Proof.Machine

/-! PROOFS. The statements about the encodings: the opcodes and the wire words, the transmit sequence, and the bits and the
words on the bus. -/

namespace Sys2Proof.Machine

/-- Settles O1: each row of the table reads the latches its operation loads; the fields of the two wire words and the
direction bit are read back as they were laid out. -/
theorem decodeOfEncodeIsTheOperation : Obligations.DecodeOfEncodeIsTheOperation := by
  intro i
  cases i with
  | hwDirSet k d => exact congrArg (fun d => Except.ok (Instr.hwDirSet k d)) (dirOfBit_dirBit d)
  | frameWord k c r s l => simp [encode, decode]
  | checksumWord k tail => simp [encode, decode]
  | _ => rfl

/-- Settles O3: the foreground is the issuer of no opcode that has a row and is not its own, so what it presents is either
reserved or another agent's. -/
theorem illegalOperationHasNoEffect : Obligations.IllegalOperationHasNoEffect := by
  refine ⟨decodeCommand_eq_reservedOpcode_iff, fun s time lines op sel x rest h ho hop => ?_⟩
  rw [step_illegal h (callInTheWay_command rfl ho) fun ha => decodeCommand_of_opIssuer_foreground ha hop sel x,
    loadPort_foreground rfl rfl]
  rfl

/-- Settles O26: the groups are the words of the chunks before the last, and the chunks in order are the first, those
between and the last. -/
theorem chunkedSequenceLayout : Obligations.ChunkedSequenceLayout := by
  intro p c d hl hpos
  refine ⟨fun hfits => buildSequence_of_fits c hl fun d' hd => ?_, fun hlong => ?_⟩
  · cases hd
    exact ⟨hpos, hfits⟩
  · obtain ⟨m, hcount, hlt, hle⟩ := chunkCount_of_longer hpos hlong
    have hfull : ∀ j, j < m + 1 → (chunkGroup p.payload d j).length = d.chunkWords := fun j hj =>
      chunkGroup_length ((Nat.mul_le_mul_right _ hj).trans hlt.le)
    have hlast := chunkGroup_eq_drop hle
    refine ⟨(List.range (m + 1)).map (chunkGroup p.payload d), chunkGroup p.payload d (m + 1), ?_, by simp, ?_, ?_, ?_, ?_⟩
    · rw [flatten_chunkGroups, hlast, List.take_append_drop]
    · simpa using hfull
    · rw [hlast, List.length_drop]
      omega
    · exact List.length_take_le ..
    · have hmiddle : ∀ j ∈ List.range m, chunkItems p c (some d) (m + 2) (j + 1) =
          .reentry :: .bitcount (32 * d.chunkWords) :: .delaycount d.delayCount ::
            (chunkGroup p.payload d (j + 1)).map .word := fun j hj => by
        have hj := List.mem_range.1 hj
        rw [chunkItems_middle p c d (by omega), hfull (j + 1) (by omega)]
      have htail : ((List.range (m + 1)).map (chunkGroup p.payload d)).tail =
          (List.range m).map fun j => chunkGroup p.payload d (j + 1) := by
        simp [List.range_succ_eq_map]
      rw [buildSequence_of_chunks c (hl ▸ hcount), chunkItems_first, chunkItems_last, List.flatMap_congr hmiddle,
        hfull 0 (by omega), htail, List.flatMap_map, ← List.append_assoc]
      simp [chunkGroup, chunkWordsOf]

/-- Settles O60: the bits the step adds to the bus are those of its item's symbols, which the serializer orders. -/
theorem shiftedBitsFollowTheWireBitOrder : Obligations.ShiftedBitsFollowTheWireBitOrder := by
  intro s k t item hk ha hi
  have hexec : exec (.enTxShift k) s = .next (s.setTrx k t.shift) := onTrx_some hk _
  refine ⟨t.shift, item.symbols.flatMap (Symbol.bits s.cfg), hexec, ?_, ?_, ?_, ?_⟩
  · simp [Trx.shift_of_armed ha hi, Trx.busBits]
  · rintro w rfl
    simpa [TxItem.symbols, Symbol.bits] using serialize_order s.cfg.wireBitOrder w
  · rintro c rfl
    simpa [TxItem.symbols, Symbol.bits] using serialize_order s.cfg.wireBitOrder c
  · intro hw hc
    cases item with
    | word w => exact absurd rfl (hw w)
    | crc c => exact absurd rfl (hc c)
    | _ => rfl

/-- Settles O2: the decoder is run on each of the words. -/
theorem writtenWordsDecode : Obligations.WrittenWordsDecode := by
  unfold Obligations.WrittenWordsDecode
  decide

/-- Settles O4: the codes are read off the two tables, and the direction bit is decoded. -/
theorem codesOfPhasesAndReasons : Obligations.CodesOfPhasesAndReasons :=
  ⟨rfl, rfl, rfl, rfl⟩

/-- Settles O25: what fits one chunk is the first chunk and the last. -/
theorem unchunkedSequenceLayout : Obligations.UnchunkedSequenceLayout :=
  fun _ c _ hl h => buildSequence_of_fits c hl h

/-- Settles O41: armed, the frame word is captured as the number of its fields and the tail as `State.captureTail_spec`
says; not armed, neither is. -/
theorem wireWordsReachTheCaptureUnit : Obligations.WireWordsReachTheCaptureUnit := by
  intro s k t c r n l b hk
  have hframe : exec (.frameWord k c r n l) s = .next (s.setTrx k (t.capture (Frame.toWord ⟨c, r, n, l⟩))) := by
    rw [← offBus_word s.cfg (Frame.toWord _)]
    exact onTrx_some hk _
  have htail : ∀ stray, exec (.checksumWord k ⟨b, stray⟩) s = .next (s.captureTail k t ⟨b, stray⟩) :=
    fun _ => onTrx_some hk _
  refine ⟨fun ha => ⟨?_, ?_, fun stray hstray => ?_⟩, fun ha => ⟨?_, fun stray => ?_⟩⟩
  · rw [hframe, Trx.capture_of_armed ha, toWord_eq_ofNat]
    rfl
  · obtain ⟨w, m, ht, hbyte, -⟩ := s.captureTail_of_armed hk ha ⟨b, 0⟩
    obtain ⟨rfl, rfl⟩ := hbyte rfl
    rw [htail, ht, checksumToWord_eq_ofNat]
    rfl
  · obtain ⟨w, m, ht, -, hdraw⟩ := s.captureTail_of_armed hk ha ⟨b, stray⟩
    obtain rfl := hdraw (by simpa [Tail.isByte] using hstray)
    exact ⟨w, by rw [htail, ht]; rfl⟩
  · rw [hframe, Trx.capture_of_not_armed ha, State.setTrx_self hk]
  · rw [htail, s.captureTail_of_not_armed hk ha]

/-- Settles O57: every operation of a transceiver or of an endpoint first looks up what its selector names. -/
theorem absentInstancesAreRefused : Obligations.AbsentInstancesAreRefused := by
  refine ⟨fun i s k hk hs => exec_of_absent hk hs, fun s e r id addr he => ?_⟩
  exact ⟨onEndpoint_none he _, onEndpoint_none he _, onEndpoint_none he _, onEndpoint_none he _, onEndpoint_none he _⟩

end Sys2Proof.Machine

/-! SUPPORT. The columns of the checksum, what one flipped bit does to it, and the validation of a frame captured whole (R130,
R131, R225 to R228). -/

namespace Sys2Proof.Machine

/-! ### The columns of the checksum -/

theorem xorBytes_cons (b : Byte) (bs : List Byte) : xorBytes (b :: bs) = b ^^^ xorBytes bs := by
  have h : xorBytes (b :: bs) = bs.foldl (· ^^^ ·) (b ^^^ 0) := by simp [xorBytes]
  rw [h, xorBytes, List.foldl_assoc]

theorem xorBytes_append (bs cs : List Byte) : xorBytes (bs ++ cs) = xorBytes bs ^^^ xorBytes cs := by
  induction bs with
  | nil => simp [xorBytes]
  | cons b bs ih => rw [List.cons_append, xorBytes_cons, ih, xorBytes_cons, BitVec.xor_assoc]

/-- A bit of an exclusive-or of bytes is the parity of its column (R130). -/
theorem xorBytes_getLsbD (bs : List Byte) (j : Nat) :
    (xorBytes bs).getLsbD j = true ↔ bs.countP (·.getLsbD j) % 2 = 1 := by
  induction bs with
  | nil => simp [xorBytes]
  | cons b bs ih =>
    rw [xorBytes_cons, BitVec.getLsbD_xor, List.countP_cons, bne_iff_ne, ne_eq, Bool.eq_iff_iff, ih]
    cases b.getLsbD j
    · simp
    · simp only [if_true, true_iff]
      omega

/-- The four bytes of a word, the lowest first. -/
def wordBytes (w : Word32) : List Byte := [0, 1, 2, 3].map fun b => w.extractLsb' (8 * b) 8

/-- `xor8` of a word is the exclusive-or of its bytes (R130). -/
theorem xor8_eq_xorBytes (w : Word32) : xor8 w = xorBytes (wordBytes w) := by
  have h : wordBytes w = [w.extractLsb' 24 8, w.extractLsb' 16 8, w.extractLsb' 8 8, w.extractLsb' 0 8].reverse := rfl
  rw [h, xorBytes_perm (List.reverse_perm _)]
  simp [xor8, xorBytes]

/-- The column of a bit in a word is that bit of each byte. -/
theorem countP_wordBytes (w : Word32) {j : Nat} (hj : j < 8) :
    (wordBytes w).countP (·.getLsbD j) = [0, 1, 2, 3].countP fun b => w.getLsbD (8 * b + j) := by
  rw [wordBytes, List.countP_map]
  congr 1
  funext b
  simp [hj]

/-- The checksum of words is the exclusive-or of all their bytes (R130). -/
theorem checksumWords_eq_xorBytes_wordBytes (ws : List Word32) : checksumWords ws = xorBytes (ws.flatMap wordBytes) := by
  rw [checksumWords_eq_xorBytes]
  induction ws with
  | nil => rfl
  | cons w ws ih => rw [List.map_cons, xorBytes_cons, ih, xor8_eq_xorBytes, List.flatMap_cons, xorBytes_append]

/-- The checksum of a packet is the exclusive-or of the four fields of its frame and of the bytes of its payload (R130). -/
theorem packetChecksum_eq_xorBytes (p : Packet) : packetChecksum p =
    xorBytes ([p.frame.command, p.frame.recipientAddr, p.frame.senderAddr, p.frame.length] ++
      p.payload.flatMap wordBytes) := by
  rw [packetChecksum, checksumWords_eq_xorBytes, List.map_cons, xorBytes_cons, Frame.toWord, xor8_append, xorBytes_append,
    ← checksumWords_eq_xorBytes, checksumWords_eq_xorBytes_wordBytes]

/-! ### One flipped bit -/

/-- Flipping bits of one byte flips them in the exclusive-or. -/
theorem xorBytes_set {bs : List Byte} {i : Nat} {b : Byte} (h : bs[i]? = some b) (e : Byte) :
    xorBytes (bs.set i (b ^^^ e)) = xorBytes bs ^^^ e := by
  induction bs generalizing i with
  | nil => cases h
  | cons a bs ih =>
    cases i with
    | zero =>
      cases h
      simp only [List.set_cons_zero, xorBytes_cons]
      ac_rfl
    | succ i => rw [List.set_cons_succ, xorBytes_cons, ih h, xorBytes_cons, BitVec.xor_assoc]

theorem xor8_xor (v w : Word32) : xor8 (v ^^^ w) = xor8 v ^^^ xor8 w := by
  simp only [xor8, BitVec.extractLsb'_xor]
  ac_rfl

/-- The byte of one bit of a word has a bit set. -/
theorem xor8_twoPow_ne_zero : ∀ b < 32, xor8 (BitVec.twoPow 32 b) ≠ 0 := by decide

/-- One flipped bit of any word changes the checksum (R131 (c)). -/
theorem checksumWords_set_ne {ws : List Word32} {i b : Nat} {w : Word32} (h : ws[i]? = some w) (hb : b < 32) :
    checksumWords (ws.set i (w ^^^ BitVec.twoPow 32 b)) ≠ checksumWords ws := by
  have hi : (ws.map xor8)[i]? = some (xor8 w) := by simp [h]
  rw [checksumWords_eq_xorBytes, checksumWords_eq_xorBytes, List.map_set, xor8_xor, xorBytes_set hi]
  exact fun he => xor8_twoPow_ne_zero b hb (BitVec.xor_right_inj _ |>.1 (he.trans BitVec.xor_zero.symm))

/-- A flipped bit outside the length byte leaves the declared length alone (R110). -/
theorem frameOfWord_length_xor_twoPow (f : Word32) {b : Nat} (hb : 8 ≤ b) :
    (frameOfWord (f ^^^ BitVec.twoPow 32 b)).length = (frameOfWord f).length := by
  ext i hi
  have hne : b ≠ i := by omega
  simp [frameOfWord, hne]

/-! ### The validity check -/

/-- A packet is valid where its payload fits and is as long as declared (R124). -/
theorem packetValid_iff (p : Packet) :
    packetValid p = true ↔ p.payload.length ≤ 255 ∧ p.frame.length.toNat = p.payload.length := by
  simp [packetValid]

/-! ### The validation of a frame captured whole -/

/-- A frame captured whole is validated by its checksum alone (R227, R228). -/
theorem Trx.validate_of_whole {t : Trx} {f cw : Word32} {rest : List Word32} (hbuf : t.rxbuf = f :: rest ++ [cw])
    (hcount : t.rxCount = t.rxbuf.length) (hlen : (frameOfWord f).length.toNat = rest.length) :
    t.validate = .ok (if checksumWords (f :: rest) = lowByte cw then ⟨.readComplete, f :: rest, rest.length + 1, .none⟩
      else ⟨.readFailed, [], 0, .crcInvalid⟩) := by
  obtain ⟨r, hr, ⟨hnil, -⟩ | ⟨g, tl, len, hcons, rfl, h⟩⟩ := Trx.validate_spec hcount.symm
  · rw [hbuf] at hnil
    cases hnil
  · obtain ⟨rfl, -⟩ : f = g ∧ _ := by simpa [hbuf] using hcons
    rw [hlen, hbuf] at h
    obtain ⟨hshort, -⟩ | ⟨w, hw, h⟩ := h
    · simp at hshort
    · obtain rfl : cw = w := by simpa using hw
      have htake : (f :: rest ++ [cw]).take (rest.length + 1) = f :: rest := List.take_left' rfl
      rw [htake] at h
      rw [hr]
      obtain ⟨hne, rfl⟩ | ⟨he, rfl⟩ := h
      · rw [if_neg hne]
      · rw [if_pos he]

/-- With nothing left in the queue the drain has nothing to move (R224). -/
theorem Trx.drain_of_empty {c : Cfg} {t : Trx} (h : t.rxFifo = []) : t.drain c = t := by
  rw [Trx.drain, h]
  rfl

/-- The act step of a read that is over reports what the validation of the drained buffer answers, and is back in `IDLE`
(R224 to R228). -/
theorem Trx.act_of_readComplete {c : Cfg} {t : Trx} {q : Poll} {r : Res} (hq : q.snap = .readComplete)
    (hr : (t.drain c).validate = .ok r) : t.act c q = .ok ({ t.drain c with state := .idle }.finish r) := by
  simp [Trx.act, hq, Trx.actReadComplete, hr]

end Sys2Proof.Machine

/-! PROOFS. The statements about packets: the packet functions, and the checksum that reports a flipped bit. -/

namespace Sys2Proof.Machine

/-- Settles O58: the flipped bit leaves the declared length alone and changes the checksum, so the frame is still whole and
fails by its checksum. -/
theorem singleBitErrorIsReported : Obligations.SingleBitErrorIsReported := by
  rintro s k t q now _ f c rest i b w hk hp hq hfifo rfl hlen hc hw hb hout hbuf hcount
  obtain ⟨f', rest', hset, hlen'⟩ : ∃ f' rest', (f :: rest).set i (w ^^^ BitVec.twoPow 32 b) = f' :: rest' ∧
      (frameOfWord f').length.toNat = rest'.length := by
    cases i with
    | zero =>
      cases hw
      refine ⟨_, rest, rfl, ?_⟩
      rw [frameOfWord_length_xor_twoPow f (by omega), frameOfWord_length_toNat, hlen]
    | succ i => exact ⟨f, _, rfl, by rw [frameOfWord_length_toNat, List.length_set, hlen]⟩
  have hbad : checksumWords (f' :: rest') ≠ lowByte c := by
    rw [lowByte_eq_setWidth, hc, ← hset]
    exact checksumWords_set_ne hw hb
  have hval := Trx.validate_of_whole (hset ▸ hbuf) hcount hlen'
  rw [if_neg hbad, ← Trx.drain_of_empty (c := s.cfg) hfifo] at hval
  exact ⟨_, execProcessEvents_act hk hp (Trx.act_of_readComplete hq hval), rfl, rfl⟩

/-- Settles O10: the checksum is the exclusive-or of the bytes of frame and payload, whose column is counted field by field
and word by word. -/
theorem checksumIsParityOfEachBitColumn : Obligations.ChecksumIsParityOfEachBitColumn := by
  refine fun p s => ⟨packetChecksum p, rfl, fun j hj => ?_⟩
  have hcol : (p.payload.flatMap wordBytes).countP (·.getLsbD j) =
      (p.payload.map fun w => [0, 1, 2, 3].countP fun b => w.getLsbD (8 * b + j)).sum := by
    rw [List.countP_flatMap]
    exact congrArg List.sum (List.map_congr_left fun w _ => countP_wordBytes w hj)
  rw [packetChecksum_eq_xorBytes, xorBytes_getLsbD, List.countP_append, hcol]

/-- Settles O6: each accessor answers its field in the result latch. -/
theorem packetAccessorsAnswerTheirField : Obligations.PacketAccessorsAnswerTheirField :=
  fun _ _ => ⟨rfl, rfl, rfl, rfl⟩

/-- Settles O7: the answer is the validity check, which is these two comparisons. -/
theorem packetValidityRejectsMismatch : Obligations.PacketValidityRejectsMismatch :=
  fun p _ => ⟨packetValid p, rfl, packetValid_iff p⟩

/-- Settles O8: the answer is the frame word, whose fields lie as `Frame.toWord_toNat` says. -/
theorem frameWordPlacesTheFields : Obligations.FrameWordPlacesTheFields :=
  fun p _ => ⟨p.frame.toWord, rfl, p.frame.toWord_toNat⟩

/-- Settles O9: each answer is its formula. -/
theorem bitCountAndDurationOfPacket : Obligations.BitCountAndDurationOfPacket :=
  fun _ _ => ⟨rfl, rfl⟩

end Sys2Proof.Machine

/-! SUPPORT. Runs of operations on one transceiver and on two, and the parts of a frame's way from one to the other: the
words a sequence puts on the wire, the sender's write, the receiver's captures and transfers, and the two calls (R97, R106,
R204, R224, R264 to R274). -/

namespace Sys2Proof.Machine

/-! ### Runs of operations -/

theorem runOps_cons {i : Instr} {is : List Instr} {s t : State} (h : exec i s = .next t) :
    runOps (i :: is) s = runOps is t := by
  simp [runOps, h]

/-- A run goes on from where its first part ends. -/
theorem runOps_append {is js : List Instr} {s t : State} (h : runOps is s = .next t) :
    runOps (is ++ js) s = runOps js t := by
  induction is generalizing s with
  | nil =>
    cases h
    rfl
  | cons i is ih =>
    rw [runOps] at h
    rw [List.cons_append, runOps]
    split at h
    · exact ih h
    · cases h
    · cases h

/-- The two machines have the same configuration and the same inputs. -/
def SameInputs (s s' : State) : Prop := s'.cfg = s.cfg ∧ s'.time = s.time ∧ s'.lines = s.lines

/-- In a machine with the configuration and the inputs of `b`, whose transceiver `k` is `t`, these operations run; they leave
`u` there, every other transceiver as it was, and the configuration and the inputs too. -/
def Leads (b : State) (k : Nat) (is : List Instr) (t u : Trx) : Prop :=
  ∀ s, SameInputs b s → s.trx[k]? = some t →
    ∃ s', runOps is s = .next s' ∧ SameInputs b s' ∧ s'.trx = s.trx.set k u

theorem Leads.nil (b : State) (k : Nat) (t : Trx) : Leads b k [] t t :=
  fun s hb hk => ⟨s, rfl, hb, (congrArg State.trx (State.setTrx_self hk)).symm⟩

theorem Leads.append {b : State} {k : Nat} {is js : List Instr} {t u v : Trx} (h : Leads b k is t u)
    (h' : Leads b k js u v) : Leads b k (is ++ js) t v := by
  intro s hb hk
  obtain ⟨s₁, hr, hb₁, ht⟩ := h s hb hk
  have hk₁ : s₁.trx[k]? = some u := by rw [ht, List.getElem?_set_self (List.getElem?_eq_some_iff.1 hk).1]
  obtain ⟨s₂, hr₂, hb₂, ht₂⟩ := h' s₁ hb₁ hk₁
  exact ⟨s₂, by rw [runOps_append hr, hr₂], hb₂, by rw [ht₂, ht, List.set_set]⟩

theorem Leads.cons {b : State} {k : Nat} {i : Instr} {is : List Instr} {t u v : Trx} (h : Leads b k [i] t u)
    (h' : Leads b k is u v) : Leads b k (i :: is) t v :=
  h.append h'

/-- An operation that writes its transceiver, and beside it at most the result latches and the outcome. -/
theorem Leads.of_exec {b : State} {k : Nat} {i : Instr} {t u : Trx} (h : ∀ s, SameInputs b s → s.trx[k]? = some t →
    ∃ y o, exec i s = .next { s with trx := s.trx.set k u, y := y, outcome := o }) : Leads b k [i] t u := by
  intro s hb hk
  obtain ⟨y, o, hx⟩ := h s hb hk
  exact ⟨_, runOps_cons hx, hb, rfl⟩

/-- These operations take the transceivers `k` and `j` from `t` and `v` to `t'` and `v'`. -/
def LeadsBoth (b : State) (k j : Nat) (is : List Instr) (t v t' v' : Trx) : Prop :=
  ∀ s, SameInputs b s → s.trx[k]? = some t → s.trx[j]? = some v →
    ∃ s', runOps is s = .next s' ∧ SameInputs b s' ∧ s'.trx[k]? = some t' ∧ s'.trx[j]? = some v'

theorem Leads.left {b : State} {k j : Nat} {is : List Instr} {t t' : Trx} (h : Leads b k is t t') (hkj : k ≠ j) (v : Trx) :
    LeadsBoth b k j is t v t' v := by
  intro s hb hk hj
  obtain ⟨s', hr, hb', ht⟩ := h s hb hk
  refine ⟨s', hr, hb', ?_, ?_⟩
  · rw [ht, List.getElem?_set_self (List.getElem?_eq_some_iff.1 hk).1]
  · rw [ht, List.getElem?_set_ne hkj, hj]

theorem Leads.right {b : State} {k j : Nat} {is : List Instr} {v v' : Trx} (h : Leads b j is v v') (hkj : k ≠ j) (t : Trx) :
    LeadsBoth b k j is t v t v' := by
  intro s hb hk hj
  obtain ⟨s', hr, hb', hj', hk'⟩ := h.left hkj.symm t s hb hj hk
  exact ⟨s', hr, hb', hk', hj'⟩

theorem LeadsBoth.append {b : State} {k j : Nat} {is js : List Instr} {t v t' v' t'' v'' : Trx}
    (h : LeadsBoth b k j is t v t' v') (h' : LeadsBoth b k j js t' v' t'' v'') :
    LeadsBoth b k j (is ++ js) t v t'' v'' := by
  intro s hb hk hj
  obtain ⟨s₁, hr, hb₁, hk₁, hj₁⟩ := h s hb hk hj
  obtain ⟨s₂, hr₂, hs₂⟩ := h' s₁ hb₁ hk₁ hj₁
  exact ⟨s₂, by rw [runOps_append hr, hr₂], hs₂⟩

/-! ### What each operation leads to -/

/-- A chunk size of at least 1 keeps the contract (R202 (b)). -/
theorem zeroChunk_eq_false {ch : Option Chunking} (h : ∀ c, ch = some c → 1 ≤ c.chunkWords) : zeroChunk ch = false := by
  cases ch with
  | none => rfl
  | some c =>
    have := h c rfl
    simp only [zeroChunk, beq_eq_false_iff_ne]
    omega

/-- The lines are clear where every sample is high (R206). -/
theorem linesClear_of_high {s : State} (h : ∀ l ∈ s.lines, l.lineA = true ∧ l.lineB = true) : s.linesClear = true := by
  simpa [State.linesClear, lineLowSeen, LineSample.low] using h

/-- An accepted `WRITE` (R201, R202). -/
theorem Leads.write {b : State} {t : Trx} {p : Packet} {ch : Option Chunking} (k : Nat) (a : Bool) (tm : Word64)
    (hs : t.state = .idle) (hp : packetValid p = true) (hch : zeroChunk ch = false) (hl : b.linesClear = true) :
    Leads b k [.write k p a tm ch] t (t.acceptWrite b.cfg b.now p a tm ch) := by
  refine .of_exec fun s hb hk => ⟨{ y0 := .u1 true, flag := .accepted }, .ok, ?_⟩
  obtain ⟨hcfg, htime, hlines⟩ := hb
  have hclear : s.linesClear = true := by rw [State.linesClear, hlines]; exact hl
  simp only [exec, execWrite, onTrx_some hk, hs, hp, hch, hclear]
  simp [State.accept, State.report, State.setTrx, State.now, hcfg, htime]

/-- An accepted `START_READ` (R212). -/
theorem Leads.startRead {b : State} {t : Trx} (k : Nat) (tm : Word64) (hs : t.state = .idle) :
    Leads b k [.startRead k tm] t (t.acceptRead b.cfg b.now tm) := by
  refine .of_exec fun s hb hk => ⟨{ y0 := .u1 true, flag := .accepted }, .ok, ?_⟩
  obtain ⟨hcfg, htime, -⟩ := hb
  simp only [exec, execStartRead, onTrx_some hk, hs]
  simp [State.accept, State.report, State.setTrx, State.now, hcfg, htime]

/-- The snapshot step (R216). -/
theorem Leads.snapshot (b : State) {t : Trx} (k : Nat) (now : Word64) (hp : t.poll = none) :
    Leads b k [.processEvents k now] t (t.snapshot now) :=
  .of_exec fun s _ hk => ⟨s.y, s.outcome, by simp only [exec, execProcessEvents, onTrx_some hk, hp]; rfl⟩

/-- The act step of an open call (R218). -/
theorem Leads.act {b : State} {t u : Trx} {q : Poll} (k : Nat) (now : Word64) (hp : t.poll = some q)
    (hu : t.act b.cfg q = .ok u) : Leads b k [.processEvents k now] t u :=
  .of_exec fun _ hb hk => ⟨_, _, execProcessEvents_act hk hp (hb.1 ▸ hu)⟩

/-- The transmit-complete handler (R262). -/
theorem Leads.txDone (b : State) {t : Trx} (k : Nat) (he : t.txDoneEnabled = true) :
    Leads b k [.evTxdone k] t (t.onTxDone b.cfg b.now) := by
  refine .of_exec fun s hb hk => ⟨s.y, s.outcome, ?_⟩
  obtain ⟨hcfg, htime, -⟩ := hb
  simp only [exec, execEvTxdone, onTrx_some hk, he, if_true, State.now, State.setTrx, hcfg, htime]

/-- The receive handler (R266). -/
theorem Leads.rxSig (b : State) {t : Trx} (k : Nat) (he : t.rxArmed = true) :
    Leads b k [.evRxsig k] t (t.onRxSig b.time) := by
  refine .of_exec fun s hb hk => ⟨s.y, s.outcome, ?_⟩
  obtain ⟨-, htime, -⟩ := hb
  simp only [exec, execEvRxsig, onTrx_some hk, Trx.captureEnabled, he, if_true, State.setTrx, htime]

/-- A step of the shifter (R268). -/
theorem Leads.shift (b : State) (k : Nat) (t : Trx) : Leads b k [.enTxShift k] t t.shift :=
  .of_exec fun s _ hk => ⟨s.y, s.outcome, onTrx_some hk _⟩

/-- A word comes off the bus as it was sent (R270). -/
theorem Leads.capture (b : State) (k : Nat) (t : Trx) (w : Word32) : Leads b k [.enRxCapture k w] t (t.capture w) :=
  .of_exec fun s _ hk => ⟨s.y, s.outcome, by
    simp only [exec, execEnRxCapture, onTrx_some hk, offBus_word, State.setTrx]⟩

/-- A transfer (R272). -/
theorem Leads.transfer (b : State) (k : Nat) (t : Trx) : Leads b k [.enRxTransfer k] t (t.transfer b.cfg) :=
  .of_exec fun s hb hk => ⟨s.y, s.outcome, hb.1 ▸ onTrx_some hk _⟩

/-! ### The words of a sequence on the wire -/

/-- The words an item leads to at a receiver (R108, R270). -/
def TxItem.captured (i : TxItem) : List Word32 := i.symbols.flatMap Symbol.captured

@[simp] theorem TxItem.captured_bitcount (n : Nat) : (TxItem.bitcount n).captured = [] := rfl
@[simp] theorem TxItem.captured_word (w : Word32) : (TxItem.word w).captured = [w] := rfl
@[simp] theorem TxItem.captured_crc (c : Byte) : (TxItem.crc c).captured = [checksumToWord c] := rfl
@[simp] theorem TxItem.captured_trailer : TxItem.trailer.captured = [] := rfl
@[simp] theorem TxItem.captured_reentry : TxItem.reentry.captured = [] := rfl
@[simp] theorem TxItem.captured_delaycount (d : Word32) : (TxItem.delaycount d).captured = [] := rfl

@[simp] theorem flatMap_captured_word (ws : List Word32) : (ws.map TxItem.word).flatMap TxItem.captured = ws := by
  rw [List.flatMap_map]
  exact List.flatMap_singleton' ws

/-- However a packet is chunked, the words of its sequence are the frame word, the payload and the checksum byte (R97, R106). -/
theorem buildSequence_captured {p : Packet} (c : Byte) {ch : Option Chunking} (hl : p.frame.length.toNat = p.payload.length)
    (hch : ∀ d, ch = some d → 1 ≤ d.chunkWords) :
    (buildSequence p c ch).flatMap TxItem.captured = p.frame.toWord :: p.payload ++ [checksumToWord c] := by
  by_cases hfits : ∀ d, ch = some d → p.payload.length ≤ d.chunkWords
  · rw [buildSequence_of_fits c hl fun d hd => ⟨hch d hd, hfits d hd⟩]
    simp
  · obtain ⟨d, rfl, hlong⟩ : ∃ d, ch = some d ∧ d.chunkWords < p.payload.length := by simpa using hfits
    obtain ⟨groups, last, hpay, hne, hfull, -, -, hseq⟩ := (chunkedSequenceLayout p c d hl (hch d rfl)).2 hlong
    obtain ⟨g, gs, rfl⟩ := List.exists_cons_of_ne_nil hne
    have hfirst : p.payload.take d.chunkWords = g := by
      rw [hpay, List.flatten_cons, List.append_assoc, List.take_left' (hfull g (List.mem_cons_self ..))]
    have hmiddle : (gs.flatMap fun g => TxItem.reentry :: .bitcount (32 * d.chunkWords) :: .delaycount d.delayCount ::
        g.map .word).flatMap TxItem.captured = gs.flatten := by
      rw [List.flatMap_assoc, ← List.flatMap_id]
      refine List.flatMap_congr fun g _ => ?_
      simp
    rw [hseq, hfirst, hpay]
    simp only [List.tail_cons, List.flatMap_append, hmiddle]
    simp

/-! ### The sender -/

/-- The armed shifter sends the rest of its sequence (R268). -/
theorem Leads.shifts (b : State) (k : Nat) {t : Trx} (ha : t.txArmed = true) {items : List TxItem}
    (hi : t.txseq.drop t.txPos = items) : Leads b k (items.map fun _ => .enTxShift k) t
      { t with wireOut := t.wireOut ++ items.flatMap TxItem.symbols, txPos := t.txPos + items.length } := by
  induction items generalizing t with
  | nil => simpa using Leads.nil b k t
  | cons item items ih =>
    have hitem : t.txseq[t.txPos]? = some item := by rw [← List.head?_drop, hi]; rfl
    have hrest : t.txseq.drop (t.txPos + 1) = items := by rw [← List.tail_drop, hi]; rfl
    have hshift := Trx.shift_of_armed ha hitem
    have h := (Leads.shift b k t).cons (ih (t := t.shift) (by rw [hshift]; exact ha) (by rw [hshift]; exact hrest))
    rw [hshift] at h
    simpa [Nat.add_comm, Nat.add_left_comm] using h

/-- A packet written with no response expected, shifted out and completed (R201, R262, R268). -/
theorem Leads.send {b : State} {t : Trx} {p : Packet} {ch : Option Chunking} (k : Nat) (tm : Word64)
    (hs : t.state = .idle) (hp : packetValid p = true) (hch : zeroChunk ch = false) (hl : b.linesClear = true) :
    ∃ u, Leads b k (.write k p false tm ch :: (buildSequence p (packetChecksum p) ch).map (fun _ => .enTxShift k) ++
        [.evTxdone k]) t u ∧ u.state = .writeComplete ∧ u.poll = t.poll ∧
      u.wireOut = t.wireOut ++ .sof :: (buildSequence p (packetChecksum p) ch).flatMap TxItem.symbols := by
  have hwrite := Leads.write k false tm hs hp hch hl
  have hshifts := Leads.shifts b k (t := t.acceptWrite b.cfg b.now p false tm ch) rfl rfl
  have hdone := hshifts.append (.txDone b k (by simp [Trx.txDoneEnabled, Trx.acceptWrite, Trx.txStart, Trx.dirSet]))
  exact ⟨_, hwrite.cons hdone, rfl, rfl, by simp [Trx.onTxDone, Trx.acceptWrite, Trx.txStart, Trx.dirSet, Trx.txStop]⟩

/-- A whole call on a write that is over reports it complete (R216, R222). -/
theorem Leads.callOnWriteComplete (b : State) {t : Trx} (k : Nat) (now : Word64) (hs : t.state = .writeComplete)
    (hp : t.poll = none) : Leads b k [.processEvents k now, .processEvents k now] t
      ({ t with state := .idle }.reportPhase .writeComplete) :=
  (Leads.snapshot b k now hp).cons (.act k now rfl (by simp only [Trx.snapshot, Trx.act, hs]; rfl))

/-! ### The receiver -/

/-- `u` is `t` but for the receive stores, which hold the words `ws`: the first of them in the buffer, where they fit, and
the others in the queue (R37, R63). -/
def Trx.Holding (c : Cfg) (ws : List Word32) (t u : Trx) : Prop :=
  ∃ buf fifo, u = { t with rxbuf := buf, rxCount := buf.length, rxFifo := fifo } ∧ buf ++ fifo = ws ∧
    buf.length ≤ c.rxBufferWords

theorem Trx.Holding.self {c : Cfg} {ws : List Word32} {t u : Trx} (h : t.Holding c ws u) : u.Holding c ws u := by
  obtain ⟨buf, fifo, rfl, hws, hle⟩ := h
  exact ⟨buf, fifo, rfl, hws, hle⟩

theorem Trx.Holding.state {c : Cfg} {ws : List Word32} {t u : Trx} (h : t.Holding c ws u) : u.state = t.state := by
  obtain ⟨buf, fifo, rfl, -⟩ := h
  rfl

theorem Trx.Holding.rxArmed {c : Cfg} {ws : List Word32} {t u : Trx} (h : t.Holding c ws u) : u.rxArmed = t.rxArmed := by
  obtain ⟨buf, fifo, rfl, -⟩ := h
  rfl

theorem Trx.Holding.poll {c : Cfg} {ws : List Word32} {t u : Trx} (h : t.Holding c ws u) : u.poll = t.poll := by
  obtain ⟨buf, fifo, rfl, -⟩ := h
  rfl

/-- A transfer moves a word within the stores (R272). -/
theorem Trx.Holding.transfer {c : Cfg} {ws : List Word32} {t u : Trx} (h : t.Holding c ws u) :
    t.Holding c ws (u.transfer c) := by
  obtain ⟨buf, fifo, rfl, rfl, hle⟩ := h
  cases fifo with
  | nil =>
    rw [Trx.transfer_disabled (.inl rfl)]
    exact ⟨buf, [], rfl, rfl, hle⟩
  | cons w fifo =>
    by_cases hroom : buf.length < c.rxBufferWords
    · rw [Trx.transfer_cons rfl rfl hroom]
      exact ⟨buf ++ [w], fifo, by simp, by simp, by simpa using hroom⟩
    · rw [Trx.transfer_disabled (.inr (not_lt.1 hroom))]
      exact ⟨buf, w :: fifo, rfl, rfl, hle⟩

/-- An armed capture adds a word (R270). -/
theorem Trx.Holding.capture {c : Cfg} {ws : List Word32} {t u : Trx} (h : t.Holding c ws u) (ha : t.rxArmed = true)
    (w : Word32) : t.Holding c (ws ++ [w]) (u.capture w) := by
  rw [Trx.capture_of_armed (h.rxArmed.trans ha)]
  obtain ⟨buf, fifo, rfl, rfl, hle⟩ := h
  exact ⟨buf, fifo ++ [w], rfl, by simp, hle⟩

/-- The start of a frame moves the progress marker and leaves the stores alone (R266). -/
theorem Trx.Holding.frameStart {c : Cfg} {ws : List Word32} {t u : Trx} (h : t.Holding c ws u)
    (hs : t.state = .waitingForReadStart) (now : Word64) :
    { t with lastProgress := u.rxCount, lastProgressTime := now, state := .readInProgress }.Holding c ws
      (u.onRxSig now) := by
  obtain ⟨buf, fifo, rfl, hws, hle⟩ := h
  exact ⟨buf, fifo, by simp only [Trx.onRxSig, hs]; rfl, hws, hle⟩

/-- The end of a frame leaves the stores alone (R266). -/
theorem Trx.Holding.frameEnd {c : Cfg} {ws : List Word32} {t u : Trx} (h : t.Holding c ws u) (hs : t.state = .readInProgress)
    (now : Word64) : { t.rxStop with state := .readComplete }.Holding c ws (u.onRxSig now) := by
  obtain ⟨buf, fifo, rfl, hws, hle⟩ := h
  exact ⟨buf, fifo, by simp only [Trx.onRxSig, hs]; rfl, hws, hle⟩

/-- So does the snapshot step (R216). -/
theorem Trx.Holding.snapshot {c : Cfg} {ws : List Word32} {t u : Trx} (h : t.Holding c ws u) (now : Word64) :
    (t.snapshot now).Holding c ws (u.snapshot now) := by
  obtain ⟨buf, fifo, rfl, hws, hle⟩ := h
  exact ⟨buf, fifo, rfl, hws, hle⟩

/-- The drain brings all the words into the buffer where they fit (R224). -/
theorem Trx.Holding.drain {c : Cfg} {ws : List Word32} {t u : Trx} (h : t.Holding c ws u) (hle : ws.length ≤ c.rxBufferWords) :
    u.drain c = { t with rxbuf := ws, rxCount := ws.length, rxFifo := [] } := by
  obtain ⟨buf, fifo, rfl, rfl, hbuf⟩ := h
  rw [List.length_append] at hle
  have hroom : fifo.length ≤ c.rxBufferWords - buf.length := by omega
  rw [Trx.drain_spec rfl hbuf]
  simp only [List.take_of_length_le hroom, List.drop_eq_nil_of_le hroom]

/-- Captures of the words `ws` with transfers anywhere among them add these words to the stores (R270, R272). -/
theorem Leads.captures {b : State} {j : Nat} {t u : Trx} {ws₀ ws : List Word32} {is : List Instr}
    (h : t.Holding b.cfg ws₀ u) (ha : ws = [] ∨ t.rxArmed = true)
    (his : is.filter (fun i => decide (i ≠ .enRxTransfer j)) = ws.map (.enRxCapture j)) :
    ∃ u', Leads b j is u u' ∧ t.Holding b.cfg (ws₀ ++ ws) u' := by
  induction is generalizing ws₀ ws u with
  | nil =>
    obtain rfl : ws = [] := by simpa using his.symm
    exact ⟨u, .nil b j u, by rwa [List.append_nil]⟩
  | cons i is ih =>
    by_cases hi : i = .enRxTransfer j
    · subst hi
      obtain ⟨u', hr, hu⟩ := ih h.transfer ha (by simpa using his)
      exact ⟨u', (Leads.transfer b j u).cons hr, hu⟩
    · rw [List.filter_cons_of_pos (by simpa using hi)] at his
      obtain ⟨w, ws', rfl, rfl, hrest⟩ := List.map_eq_cons_iff.1 his.symm
      have harmed : t.rxArmed = true := by simpa using ha
      obtain ⟨u', hr, hu⟩ := ih (h.capture harmed w) (.inr harmed) hrest.symm
      exact ⟨u', (Leads.capture b j u w).cons hr, by simpa using hu⟩

/-- Transfers alone add no word (R272). -/
theorem Leads.transfers {b : State} {t u : Trx} {ws : List Word32} (j n : Nat) (h : t.Holding b.cfg ws u) :
    ∃ u', Leads b j (List.replicate n (.enRxTransfer j)) u u' ∧ t.Holding b.cfg ws u' := by
  simpa using Leads.captures (is := List.replicate n (.enRxTransfer j)) h (.inl rfl) (by simp)

/-- A receiver that waits for a frame, its stores empty, takes the words `ws` between the two signals of the frame, with
transfers anywhere among and after the captures (R266, R270, R272). -/
theorem Leads.receive {b : State} {j : Nat} {t : Trx} {ws : List Word32} {is : List Instr} (n : Nat)
    (hs : t.state = .waitingForReadStart) (ha : t.rxArmed = true) (hh : t.Holding b.cfg [] t)
    (his : is.filter (fun i => decide (i ≠ .enRxTransfer j)) = ws.map (.enRxCapture j)) :
    ∃ u, Leads b j (.evRxsig j :: is ++ .evRxsig j :: List.replicate n (.enRxTransfer j)) t u ∧
      u.state = .readComplete ∧ u.poll = t.poll ∧ u.Holding b.cfg ws u := by
  obtain ⟨u₁, hcap, hh₁⟩ := Leads.captures (hh.frameStart hs b.time) (.inr ha) his
  have harmed : u₁.rxArmed = true := hh₁.rxArmed.trans ha
  obtain ⟨u₂, htrans, hh₂⟩ := Leads.transfers j n (hh₁.frameEnd rfl b.time)
  exact ⟨u₂, ((Leads.rxSig b j ha).cons hcap).append ((Leads.rxSig b j harmed).cons htrans), hh₂.state, hh₂.poll, hh₂.self⟩

/-- A whole call on a frame captured whole with its checksum right, with transfers inside the call, reports the words of the
frame (R216, R224, R228). -/
theorem Leads.callOnReadComplete {b : State} {t : Trx} {f cw : Word32} {rest : List Word32} (j n : Nat) (now : Word64)
    (hs : t.state = .readComplete) (hp : t.poll = none) (hh : t.Holding b.cfg (f :: rest ++ [cw]) t)
    (hfits : (f :: rest ++ [cw]).length ≤ b.cfg.rxBufferWords) (hlen : (frameOfWord f).length.toNat = rest.length)
    (hsum : checksumWords (f :: rest) = lowByte cw) : ∃ u,
      Leads b j (.processEvents j now :: List.replicate n (.enRxTransfer j) ++ [.processEvents j now]) t u ∧
      u.state = .idle ∧ u.res = ⟨.readComplete, f :: rest, rest.length + 1, .none⟩ := by
  obtain ⟨u, htrans, hu⟩ := Leads.transfers j n (hh.snapshot now)
  have hval : (u.drain b.cfg).validate = .ok ⟨.readComplete, f :: rest, rest.length + 1, .none⟩ := by
    rw [hu.drain hfits, Trx.validate_of_whole rfl rfl hlen, if_pos hsum]
  exact ⟨_, ((Leads.snapshot b j now hp).cons htrans).append (.act j now hu.poll (Trx.act_of_readComplete hs hval)), rfl, rfl⟩

end Sys2Proof.Machine

/-! PROOFS. A frame sent on one transceiver and captured by another. -/

namespace Sys2Proof.Machine

/-- Settles O59: the operations fall into the read that is started, the write that is sent, the frame that is received and
the two calls, each on one of the two transceivers; the words received are those of the sequence, whatever its chunking, so
the frame is whole and its checksum is right. -/
theorem loopedBackFrameValidates : Obligations.LoopedBackFrameValidates := by
  rintro s k j t v p tm now ch syms captures afterEnd inCall hi hkj hk hj hts hvs htp hvp hlines hmax hlen hch rfl hcap
  have hwords := buildSequence_captured (packetChecksum p) hlen hch
  have hfits : (p.frame.toWord :: p.payload ++ [checksumToWord (packetChecksum p)]).length ≤ s.cfg.rxBufferWords := by
    obtain ⟨-, hroom⟩ := hi.cfg
    simp only [List.length_append, List.length_cons, List.length_nil]
    omega
  rw [List.flatMap_assoc] at hcap
  obtain ⟨t₁, hsend, ht₁, htp₁, hwire⟩ := Leads.send (b := s) k tm hts ((packetValid_iff p).2 ⟨hmax, hlen⟩)
    (zeroChunk_eq_false hch) (linesClear_of_high hlines)
  obtain ⟨v₁, hreceive, hv₁, hvp₁, hh⟩ := Leads.receive (b := s) (t := v.acceptRead s.cfg s.now s.cfg.noTimeout) afterEnd
    rfl rfl ⟨[], [], rfl, rfl, Nat.zero_le _⟩ hcap
  obtain ⟨v₂, hcall, hv₂, hres⟩ := Leads.callOnReadComplete (b := s) j inCall now hv₁ (hvp₁.trans hvp) (hwords ▸ hh)
    hfits (by rw [frameOfWord_toWord, hlen]) (lowByte_checksumToWord _).symm
  have hdone := Leads.callOnWriteComplete s k now ht₁ (htp₁.trans htp)
  have hrun := ((((Leads.startRead j s.cfg.noTimeout hvs).right hkj t).append (hsend.left hkj _)).append
    (hreceive.right hkj _)).append ((hdone.left hkj _).append (hcall.right hkj _))
  obtain ⟨s', hr, -, hk', hj'⟩ := hrun s ⟨rfl, rfl, rfl⟩ hk hj
  refine ⟨s', _, v₂, ?_, hk', hj', hwire, rfl, rfl, hv₂, hres⟩
  rw [← hr]
  simp

end Sys2Proof.Machine

/-! PROOFS. The notification capability: the block holds the target and never depends on what a callback does (R140). -/

namespace Sys2Proof.Machine

/-- R141. -/
@[simp] theorem exec_notifyStarted (target : Handle) (s : State) : exec (.notifyStarted target) s = .next s := rfl

/-- R142. -/
@[simp] theorem exec_notifyFailed (target : Handle) (wf rf : Bool) (s : State) :
    exec (.notifyFailed target wf rf) s = .next s := rfl

/-- R143. -/
@[simp] theorem exec_notifyCompleted (target : Handle) (p : Packet) (s : State) :
    exec (.notifyCompleted target p) s = .next s := rfl

/-- Settles O12: one equation per callback. -/
theorem callbacksHaveNoEffect : Obligations.CallbacksHaveNoEffect := fun s target wf rf p =>
  ⟨exec_notifyStarted target s, exec_notifyFailed target wf rf s, exec_notifyCompleted target p s⟩

end Sys2Proof.Machine

/-! SUPPORT. What the commands of the schedule answer, in the terms of the rules that speak of them (R150 to R168). -/

namespace Sys2Proof.Machine

/-- `ADD` of a priority out of range (R152). -/
theorem schedAdd_of_outOfRange {s : State} {pr : Byte} (h : s.cfg.maxPriority.toNat < pr.toNat) (r : SendRequest) :
    schedAdd s pr r = violate .priorityOutOfRange := if_pos (BitVec.lt_def.2 h)

/-- A priority within the range passes the first check of `ADD` (R152). -/
theorem schedAdd_of_inRange {s : State} {pr : Byte} (h : pr.toNat ≤ s.cfg.maxPriority.toNat) (r : SendRequest) :
    schedAdd s pr r = if schedFull s.cfg s.sched then violate .scheduleFull else .next ({ s with
      nextId := s.nextId + 1
      sched := s.sched.modify pr.toNat fun b => orderedInsert b (transmissionOf s.nextId pr r) }.answer (.u32 s.nextId)) :=
  if_neg (BitVec.not_lt.2 (BitVec.le_def.2 h))

/-- The schedule is full exactly when it has a capacity and has reached it (R152, R154). -/
theorem schedFull_eq_true {c : Cfg} {sched : List (List Transmission)} :
    schedFull c sched = true ↔ ∃ cap, c.schedCapacity = some cap ∧ cap ≤ schedTotal sched := by
  rw [← Bool.not_eq_false, schedFull_eq_false]
  push Not
  rfl

/-- An entry without a period leaves no copy (R157). -/
theorem bucketAfterPop_of_noPeriod {h : Transmission} (hp : h.autoRepeatPeriodUs.toNat = 0) (now : Nat)
    (tl : List Transmission) : bucketAfterPop now h tl = tl := by
  rw [bucketAfterPop, nextOccurrence, if_pos hp]

/-- An entry with a period leaves a copy, at the time the cadence function gives after the popped time and not before `now`,
unless its end time is reached (R157). -/
theorem bucketAfterPop_of_period {h : Transmission} (hp : 0 < h.autoRepeatPeriodUs.toNat) (now : Nat)
    (tl : List Transmission) : ∃ next, next % h.autoRepeatPeriodUs.toNat = h.txTime % h.autoRepeatPeriodUs.toNat ∧
      h.txTime < next ∧ now ≤ next ∧ next < max now (h.txTime + 1) + h.autoRepeatPeriodUs.toNat ∧
      bucketAfterPop now h tl = if h.autoRepeatEndTimeUs.toNat = 0 ∨ next < h.autoRepeatEndTimeUs.toNat
        then orderedInsert tl { h with txTime := next } else tl := by
  obtain ⟨hge, hlt, hmod⟩ := nextCadenceTime_spec (max now (h.txTime + 1)) h.txTime hp
  refine ⟨_, hmod, by omega, by omega, hlt, ?_⟩
  rw [bucketAfterPop, nextOccurrence, if_neg hp.ne']
  dsimp only
  split_ifs <;> rfl

/-- Where a head is due, the scan takes a due head, of that bucket or of one before it (R156). -/
theorem popScan_of_due {now p : Nat} {sched : List (List Transmission)} {h : Transmission} {tl : List Transmission}
    (hp : sched[p]? = some (h :: tl)) (hd : h.txTime ≤ now) : ∃ (p' : Nat) (h' : Transmission) (tl' : List Transmission),
      p' ≤ p ∧ sched[p']? = some (h' :: tl') ∧ h'.txTime ≤ now ∧
      popScan now sched = some (h', sched.set p' (bucketAfterPop now h' tl')) := by
  cases hscan : popScan now sched with
  | none => exact absurd hd (Nat.not_le.2 ((popScan_none_iff now).1 hscan p h tl hp))
  | some found =>
    obtain ⟨h', r⟩ := found
    obtain ⟨p', tl', hp', hd', hfirst, rfl⟩ := popScan_some hscan
    refine ⟨p', h', tl', Nat.not_lt.1 fun hlt => ?_, hp', hd', rfl⟩
    exact absurd hd (Nat.not_le.2 (hfirst p h tl hlt hp))

/-- The head of a sorted bucket is due when any entry is (R24). -/
theorem head_due_of_mem {now : Nat} {b : List Transmission} (hs : bucketSorted b) {e : Transmission} (he : e ∈ b)
    (hd : e.txTime ≤ now) : ∃ h tl, b = h :: tl ∧ h.txTime ≤ now := by
  cases b with
  | nil => cases he
  | cons h tl =>
    refine ⟨h, tl, rfl, ?_⟩
    rcases List.mem_cons.1 he with rfl | he
    · exact hd
    · exact (List.rel_of_pairwise_cons hs he).trans hd

/-- `POPNEXT` where the scan finds a head (R156). -/
theorem execPopnext_some {now : Word64} {s : State} {h : Transmission} {sched : List (List Transmission)}
    (hscan : popScan now.toNat s.sched = some (h, sched)) :
    execPopnext now s = .next ({ s with sched := sched }.answer (.transmission (some h))) := by
  rw [execPopnext, hscan]

/-- `POPNEXT` where the scan finds none (R156). -/
theorem execPopnext_none {now : Word64} {s : State} (hscan : popScan now.toNat s.sched = none) :
    execPopnext now s = .next (s.answer (.transmission none)) := by
  rw [execPopnext, hscan]

/-- The entries a test counts are those of all buckets together (R150). -/
theorem schedCount_eq_countP_flatten (q : Transmission → Bool) (sched : List (List Transmission)) :
    schedCount q sched = sched.flatten.countP q := List.countP_flatten.symm

theorem hasId_eq (id : Word32) : hasId id = fun e => decide (e.id = id) :=
  funext fun e => beq_eq_decide e.id id

theorem hasRecipient_eq (addr : Byte) : hasRecipient addr = fun e => decide (e.packet.frame.recipientAddr = addr) :=
  funext fun e => beq_eq_decide e.packet.frame.recipientAddr addr

/-- A cancel command whose test is that of `P` keeps in every bucket what is not `P`, in order, and counts what is (R160,
R162, R240). -/
theorem schedCancel_spec (s : State) (P : Transmission → Prop) [DecidablePred P] : ∃ n : Word32,
    schedCancel s (fun e => decide (P e)) = { s with
      sched := s.sched.map fun b => b.filter fun e => decide (¬P e), y := { y0 := .u32 n, flag := .count }, outcome := .ok } ∧
    ((s.sched.map fun b => b.countP fun e => decide (P e)).sum < 2 ^ 32 →
      n.toNat = (s.sched.map fun b => b.countP fun e => decide (P e)).sum) := by
  refine ⟨_, ?_, countResult_toNat⟩
  simp only [decide_not]
  rfl

end Sys2Proof.Machine

/-! PROOFS. The statements about the scheduler (spec/42_scheduler.md). -/

namespace Sys2Proof.Machine

/-- Settles O13: the two checks in their order, then the bucket with the entry inserted in its order. -/
theorem addInsertsInTimeOrder : Obligations.AddInsertsInTimeOrder := by
  refine fun s pr r => ⟨fun hout => schedAdd_of_outOfRange hout r, fun hin hfull => ?_, fun hin hroom b hb hs => ?_⟩
  · exact (schedAdd_of_inRange hin r).trans (if_pos (schedFull_eq_true.2 hfull))
  · obtain ⟨before, after, hsplit, hins, hbefore, hafter⟩ := orderedInsert_spec hs (transmissionOf s.nextId pr r)
    refine ⟨before, after, hsplit, hbefore, hafter, ?_⟩
    have hadd := (schedAdd_of_inRange hin r).trans (if_neg (Bool.eq_false_iff.1 (schedFull_eq_false.2 hroom)))
    have hset : s.sched.modify pr.toNat (fun b => orderedInsert b (transmissionOf s.nextId pr r)) =
        s.sched.set pr.toNat (before ++ transmissionOf s.nextId pr r :: after) := by
      rw [List.modify_eq_set_getElem?, hb, ← hins]
      rfl
    rw [hset] at hadd
    exact hadd

/-- Settles O15: the scan takes the head of the first due bucket, and the bucket it leaves is the tail, with the copy
inserted in its order where the period and the end time ask for one. -/
theorem popNextTakesFirstDueHeadAndReschedules : Obligations.PopNextTakesFirstDueHeadAndReschedules := by
  refine fun s now p h tl hp hd hfirst hs => ⟨bucketAfterPop now.toNat h tl,
    execPopnext_some (popScan_of_first_due hp hd hfirst), fun hp0 => bucketAfterPop_of_noPeriod hp0 _ _, fun hpos => ?_⟩
  obtain ⟨next, hmod, hlater, hnow, hlt, hb⟩ := bucketAfterPop_of_period hpos now.toNat tl
  refine ⟨next, hmod, hlater, hnow, hlt, fun hend => ?_, fun hend => hb.trans (if_neg hend)⟩
  obtain ⟨before, after, hsplit, hins, hbefore, hafter⟩ := orderedInsert_spec hs { h with txTime := next }
  exact ⟨before, after, hsplit, hbefore, hafter, (hb.trans (if_pos hend)).trans hins⟩

/-- Settles O16: what the scan takes is due; and in a schedule in its form a due entry makes its bucket's head due, so the
scan ends at that bucket or before it, at an entry of the bucket's own priority. -/
theorem popNextReturnsADueEntryOfLeastNumber : Obligations.PopNextReturnsADueEntryOfLeastNumber := by
  refine fun s now => ⟨?_, fun hw p b e hb he hd => ?_⟩
  · cases hscan : popScan now.toNat s.sched with
    | none => exact ⟨_, none, execPopnext_none hscan, rfl, fun h hh => by cases hh⟩
    | some found =>
      obtain ⟨h, r⟩ := found
      obtain ⟨p, tl, -, hdue, -⟩ := popScan_some hscan
      exact ⟨_, some h, execPopnext_some hscan, rfl, fun h' hh => by cases hh; exact hdue⟩
  · obtain ⟨-, hbuckets, -⟩ := schedWf_iff.1 hw
    obtain ⟨h, tl, rfl, hhead⟩ := head_due_of_mem (hbuckets p b hb).1 he hd
    obtain ⟨p', h', tl', hle, hp', hdue, hscan⟩ := popScan_of_due hb hhead
    obtain ⟨-, hprio⟩ := hbuckets p' _ hp'
    exact ⟨_, h', execPopnext_some hscan, rfl, hdue, (hprio h' List.mem_cons_self).trans_le hle⟩

/-- Settles O20: the answer is the cadence function's. -/
theorem nextCadenceIsTheFirstCongruentTime : Obligations.NextCadenceIsTheFirstCongruentTime :=
  fun _ now offset _ => ⟨rfl, fun hpos => ⟨_, if_neg hpos.ne', nextCadenceTime_spec now.toNat offset.toNat hpos⟩⟩

/-- Settles O14: the scan finds nothing when no head is due. -/
theorem popNextAnswersNoneWhenNothingIsDue : Obligations.PopNextAnswersNoneWhenNothingIsDue :=
  fun _ now hnone => execPopnext_none ((popScan_none_iff now.toNat).2 hnone)

/-- Settles O17: each command is a removal by its own test. -/
theorem cancelRemovesExactlyTheMatches : Obligations.CancelRemovesExactlyTheMatches := by
  intro s id addr
  obtain ⟨n, hid, hn⟩ := schedCancel_spec s fun e => e.id = id
  obtain ⟨m, haddr, hm⟩ := schedCancel_spec s fun e => e.packet.frame.recipientAddr = addr
  rw [← hasId_eq] at hid
  rw [← hasRecipient_eq] at haddr
  exact ⟨⟨n, congrArg Host.Outcome.next hid, hn⟩, ⟨m, congrArg Host.Outcome.next haddr, hm⟩⟩

/-- Settles O18: both commands answer the count of one and the same test. -/
theorem countAgreesWithCancelByRecipient : Obligations.CountAgreesWithCancelByRecipient := by
  refine fun s addr => ⟨countResult (schedCount (hasRecipient addr) s.sched), schedCancel s (hasRecipient addr), rfl, rfl,
    rfl, fun hlt => ?_⟩
  rw [schedCount_eq_countP_flatten, hasRecipient_eq]
  exact countResult_toNat hlt

/-- Settles O19: a removal by the test that every entry passes. -/
theorem cancelAllEmptiesEveryBucket : Obligations.CancelAllEmptiesEveryBucket := by
  refine fun s => ⟨countResult (schedCount (fun _ => true) s.sched), ?_, fun hlt => ?_⟩
  · have hempty : schedRemove (fun _ => true) s.sched = s.sched.map fun _ => [] :=
      List.map_congr_left fun b _ => List.filter_false b
    rw [← hempty]
    rfl
  · rw [schedCount_eq_countP_flatten, List.countP_true]
    exact countResult_toNat hlt

end Sys2Proof.Machine

/-! SUPPORT. Each command of a configured endpoint is one of the scheduler's (R114, R190), and `ADD` where the schedule has
room (R152). -/

namespace Sys2Proof.Machine

section
variable {s : State} {e : Nat} {p : Byte}

/-- `EP_ADD` expands to `ADD` at the endpoint's priority (R191). -/
theorem exec_epAdd (h : s.endpoints[e]? = some p) (r : SendRequest) : exec (.epAdd e r) s = exec (.add p r) s :=
  onEndpoint_some h _

/-- `EP_CANCEL_BY_ID` expands to `CANCEL_BY_ID` (R192). -/
theorem exec_epCancelById (h : s.endpoints[e]? = some p) (id : Word32) :
    exec (.epCancelById e id) s = exec (.cancelById id) s := onEndpoint_some h _

/-- `EP_CANCEL_BY_RECIPIENT` expands to `CANCEL_BY_RECIPIENT` (R193). -/
theorem exec_epCancelByRecipient (h : s.endpoints[e]? = some p) (addr : Byte) :
    exec (.epCancelByRecipient e addr) s = exec (.cancelByRecipient addr) s := onEndpoint_some h _

/-- `EP_COUNT_RECIPIENTS` expands to `COUNT_RECIPIENTS` (R194). -/
theorem exec_epCountRecipients (h : s.endpoints[e]? = some p) (addr : Byte) :
    exec (.epCountRecipients e addr) s = exec (.countRecipients addr) s := onEndpoint_some h _

/-- `EP_CANCEL_ALL` expands to `CANCEL_ALL` (R195). -/
theorem exec_epCancelAll (h : s.endpoints[e]? = some p) : exec (.epCancelAll e) s = exec .cancelAll s :=
  onEndpoint_some h _

end

/-- `ADD` of a priority within the range completes where the schedule has room (R152, R154). -/
theorem schedAdd_of_room {s : State} {pr : Byte} (h : pr.toNat ≤ s.cfg.maxPriority.toNat)
    (hroom : ∀ cap, s.cfg.schedCapacity = some cap → schedTotal s.sched < cap) (r : SendRequest) :
    schedAdd s pr r = .next ({ s with
      nextId := s.nextId + 1
      sched := s.sched.modify pr.toNat fun b => orderedInsert b (transmissionOf s.nextId pr r) }.answer (.u32 s.nextId)) :=
  (schedAdd_of_inRange h r).trans (if_neg (Bool.eq_false_iff.1 (schedFull_eq_false.2 hroom)))

end Sys2Proof.Machine

/-! PROOFS. The statements about the endpoint scheduler (spec/43_endpoint.md). -/

namespace Sys2Proof.Machine

/-- Settles O21: the endpoint's command is `ADD` at its priority, which completes where there is room. -/
theorem endpointAddIsAddAtItsPriority : Obligations.EndpointAddIsAddAtItsPriority := by
  refine fun s e p r he => ⟨exec_epAdd he r, fun hin hroom => ?_⟩
  have hadd : exec (.epAdd e r) s = _ := (exec_epAdd he r).trans (schedAdd_of_room hin hroom r)
  exact ⟨_, hadd, rfl, rfl, rfl⟩

/-- Settles O22: each command is the scheduler's own, which completes from every state; what `CANCEL_ALL` leaves is O19. -/
theorem endpointCommandsReachTheWholeSchedule : Obligations.EndpointCommandsReachTheWholeSchedule := by
  intro s e p id addr he
  refine ⟨⟨_, exec_epCancelById he id, rfl⟩, ⟨_, exec_epCancelByRecipient he addr, rfl⟩,
    ⟨_, exec_epCountRecipients he addr, rfl⟩, ?_⟩
  obtain ⟨n, hall, -⟩ := cancelAllEmptiesEveryBucket s
  refine ⟨_, (exec_epCancelAll he).trans hall, hall, fun b hb => ?_⟩
  obtain ⟨_, -, hempty⟩ := List.mem_map.1 hb
  exact hempty.symm

end Sys2Proof.Machine

/-! SUPPORT. What each operation does to the `STATE` of the transceiver it acts on, and that it acts on no other (R238). -/

namespace Sys2Proof.Machine

/-- `PROCESS_EVENTS` may go to `IDLE` from every state (R238). -/
theorem transitionOf_processEvents (k : Nat) (now : Word64) (a : TState) :
    transitionOf (.processEvents k now) a .idle = true := by
  cases a <;> rfl

/-- A word off the bus leaves `STATE` alone (R270). -/
@[simp] theorem Trx.capture_state (t : Trx) (w : Word32) : (t.capture w).state = t.state := by
  unfold Trx.capture
  split <;> rfl

/-- A step of the shifter leaves `STATE` alone (R268). -/
@[simp] theorem Trx.shift_state (t : Trx) : t.shift.state = t.state := by
  obtain ⟨n, out, ht⟩ := t.shift_frame
  rw [ht]

/-- A transfer leaves `STATE` alone (R272). -/
@[simp] theorem Trx.transfer_state (c : Cfg) (t : Trx) : (t.transfer c).state = t.state := by
  obtain ⟨buf, n, fifo, ht⟩ := t.transfer_frame c
  rw [ht]

/-- The transmit-complete handler waits for the response or holds the finished write (R262). -/
theorem Trx.onTxDone_state (c : Cfg) (now : Nat) (t : Trx) :
    (t.onTxDone c now).state = .waitingForReadStart ∨ (t.onTxDone c now).state = .writeComplete := by
  unfold Trx.onTxDone
  split
  · exact .inl rfl
  · exact .inr rfl

/-- The act step writes `IDLE` to `STATE` or leaves it alone (R218). -/
theorem Trx.act_state {c : Cfg} {q : Poll} {t u : Trx} (h : t.act c q = .ok u) : u.state = t.state ∨ u.state = .idle := by
  cases Trx.act_cases h with
  | reported => exact .inl rfl
  | readDone | writeDone | readFailed | writeFailed => exact .inr rfl

/-- The receive handler makes its two transitions (R266). -/
theorem Trx.onRxSig_transition (k : Nat) (now : Word64) (t : Trx) : t.state = (t.onRxSig now).state ∨
    transitionOf (.evRxsig k) t.state (t.onRxSig now).state = true := by
  unfold Trx.onRxSig
  split
  · rename_i hs
    exact .inr (by rw [hs]; rfl)
  · rename_i hs
    exact .inr (by rw [hs]; rfl)
  · exact .inl rfl

/-- What an operation does to the `STATE` of the transceiver it acts on is a transition of the table (R238), where only a
write under way can be completed (R46). -/
theorem TrxCase.transition {s : State} {t u : Trx} {i : Instr} (h : TrxCase s t i u) (hi : t.Inv s.cfg) :
    t.state = u.state ∨ transitionOf i t.state u.state = true := by
  cases h with
  | write k p a tm ch hs => exact .inr (by rw [hs]; rfl)
  | startRead k tm hs => exact .inr (by rw [hs]; rfl)
  | act k now q u hp hu =>
    obtain hst | hst := Trx.act_state hu
    · exact .inl hst.symm
    · exact .inr (by rw [hst]; exact transitionOf_processEvents k now t.state)
  | txDone k he =>
    have hs := hi.writing_of_txArmed (Bool.and_eq_true_iff.1 he).1
    obtain hst | hst := t.onTxDone_state s.cfg s.now
    · exact .inr (by rw [hs, hst]; rfl)
    · exact .inr (by rw [hs, hst]; rfl)
  | rxSig k he => exact t.onRxSig_transition k s.time
  | shift => exact .inl t.shift_state.symm
  | capture | frameWord | checksumWord => exact .inl (t.capture_state _).symm
  | transfer => exact .inl (t.transfer_state s.cfg).symm
  | snapshot | hwTxStart | hwTxStop | hwRxPrepare | hwRxStart | hwRxStop | hwDirSet => exact .inl rfl

/-- An operation leaves a transceiver as it was, or acts on it (R238, R328). -/
theorem exec_trx_cases {i : Instr} {s t : State} {k : Nat} {u v : Trx} (h : exec i s = .next t) (hu : s.trx[k]? = some u)
    (hv : t.trx[k]? = some v) : v = u ∨ trxOf i = some k ∧ TrxCase s u i v := by
  cases exec_cases h with
  | reported y o ht | scheduled n sched y o hw ht =>
    rw [ht] at hv
    exact .inl (Option.some.inj (hv.symm.trans hu))
  | acted j a b y o n hj ha hb ht =>
    rw [ht] at hv
    by_cases hjk : j = k
    · subst hjk
      cases hu.symm.trans ha
      rw [List.getElem?_set_self (List.getElem?_eq_some_iff.1 hu).1] at hv
      cases hv
      exact .inr ⟨hj, hb⟩
    · rw [List.getElem?_set_ne hjk] at hv
      exact .inl (Option.some.inj (hv.symm.trans hu))

end Sys2Proof.Machine

/-! PROOFS. The transitions of `STATE` (R238). -/

namespace Sys2Proof.Machine

/-- Settles O48: a transceiver the operation does not act on is left as it was, and on the one it acts on each case of the
operation is a row of the table. -/
theorem transitionsOfStateAreTheTable : Obligations.TransitionsOfStateAreTheTable := by
  intro i s t k u v hi h hu hv
  obtain rfl | ⟨hk, hcase⟩ := exec_trx_cases h hu hv
  · exact .inl rfl
  · exact (hcase.transition (hi.trx u (List.mem_of_getElem? hu))).imp_right fun htr => ⟨htr, hk⟩

end Sys2Proof.Machine

/-! SUPPORT. What `WRITE`, `LINE_CHECK` and `START_READ` answer on a transceiver that exists, one lemma per check and one for
the accepted command (R202 to R212). -/

namespace Sys2Proof.Machine

/-! ### The line check and the write budget -/

/-- The lines are clear exactly where both were high at every sample (R206). -/
theorem linesClear_iff (s : State) : s.linesClear = true ↔ ∀ l ∈ s.lines, l.lineA = true ∧ l.lineB = true := by
  simp [State.linesClear, lineLowSeen, LineSample.low]

/-- One low sample and the lines are not clear (R206). -/
theorem linesClear_of_low {s : State} (h : ∃ l ∈ s.lines, l.lineA = false ∨ l.lineB = false) : s.linesClear = false := by
  obtain ⟨l, hl, hlow⟩ := h
  refine Bool.eq_false_iff.2 fun hclear => ?_
  obtain ⟨ha, hb⟩ := (linesClear_iff s).1 hclear l hl
  simp [ha, hb] at hlow

/-- An unchunked write has no gap (R107). -/
@[simp] theorem chunkGapNs_none (c : Cfg) (len : Nat) : chunkGapNs c len none = 0 := by
  simp [chunkGapNs, chunkCount]

/-- The gaps are one fewer than the chunks (R106, R107). -/
theorem chunkGapNs_some (c : Cfg) (len : Nat) {d : Chunking} (h : 1 ≤ d.chunkWords) : chunkGapNs c len (some d) =
    (max 1 ((len + d.chunkWords - 1) / d.chunkWords) - 1) * d.delayCount.toNat * c.chunkDelayNsPerCount := by
  rw [Nat.add_sub_assoc h]
  rfl

/-! ### `WRITE` -/

/-- What an accepted `WRITE` leaves of a transceiver whose capture is neither armed nor prepared, field by field (R208). -/
theorem Trx.acceptWrite_eq {t : Trx} (hrx : t.rxArmed = false) (hp : t.rxPrepared = false) (c : Cfg) (now : Nat) (p : Packet)
    (a : Bool) (tm : Word64) (ch : Option Chunking) : t.acceptWrite c now p a tm ch = { t with
      txseq := buildSequence p (packetChecksum p) ch
      txPos := 0
      txArmed := true
      wireOut := t.wireOut ++ [.sof]
      rxCount := if a then 0 else t.rxCount
      rxFifo := if a then [] else t.rxFifo
      rxbuf := if a then [] else t.rxbuf
      rxPrepared := a
      rxArmed := false
      respExpected := a
      readTimeout := tm
      dir := .output
      deadline := some (now + writeBudgetUs c p ch)
      state := .writeInProgress } := by
  cases a <;> simp [Trx.acceptWrite, Trx.txStart, Trx.rxPrepare, Trx.dirSet, hrx, hp]

section
variable {s : State} {k : Nat} {t : Trx} {p : Packet} {ch : Option Chunking}

/-- A busy transceiver does not accept a write (R202 (a)). -/
theorem exec_write_of_busy (hk : s.trx[k]? = some t) (hb : t.state ≠ .idle) (p : Packet) (a : Bool) (tm : Word64)
    (ch : Option Chunking) : exec (.write k p a tm ch) s = .next s.notAccept :=
  (onTrx_some hk _).trans (if_pos hb)

/-- The checks of a write on an idle transceiver (R202 (b), (c)). -/
theorem exec_write_of_idle (hk : s.trx[k]? = some t) (hi : t.state = .idle) (p : Packet) (a : Bool) (tm : Word64)
    (ch : Option Chunking) : exec (.write k p a tm ch) s =
      if !packetValid p then violate .malformedPacket
      else if zeroChunk ch then violate .zeroChunk
      else if !s.linesClear then .next s.notAccept
      else .next (s.setTrx k (t.acceptWrite s.cfg s.now p a tm ch)).accept :=
  (onTrx_some hk _).trans (if_neg (not_not.2 hi))

/-- A malformed packet is a contract violation (R202 (b)). -/
theorem exec_write_of_malformed (hk : s.trx[k]? = some t) (hi : t.state = .idle) (hp : packetValid p = false) (a : Bool)
    (tm : Word64) (ch : Option Chunking) :
    exec (.write k p a tm ch) s = .fault (.contractViolation .malformedPacket) := by
  rw [exec_write_of_idle hk hi, hp]
  rfl

/-- So is a chunk size of 0, once the packet is valid (R202 (b)). -/
theorem exec_write_of_zeroChunk (hk : s.trx[k]? = some t) (hi : t.state = .idle) (hp : packetValid p = true)
    (hch : zeroChunk ch = true) (a : Bool) (tm : Word64) :
    exec (.write k p a tm ch) s = .fault (.contractViolation .zeroChunk) := by
  rw [exec_write_of_idle hk hi, hp, hch]
  rfl

/-- Then a low line has the write not accepted (R202 (c)). -/
theorem exec_write_of_low (hk : s.trx[k]? = some t) (hi : t.state = .idle) (hp : packetValid p = true)
    (hch : zeroChunk ch = false) (hl : s.linesClear = false) (a : Bool) (tm : Word64) :
    exec (.write k p a tm ch) s = .next s.notAccept := by
  rw [exec_write_of_idle hk hi, hp, hch, hl]
  rfl

/-- A write that passes the checks is accepted (R201, R208). -/
theorem exec_write_of_clear (hk : s.trx[k]? = some t) (hi : t.state = .idle) (hp : packetValid p = true)
    (hch : zeroChunk ch = false) (hl : s.linesClear = true) (a : Bool) (tm : Word64) :
    exec (.write k p a tm ch) s = .next (s.setTrx k (t.acceptWrite s.cfg s.now p a tm ch)).accept := by
  rw [exec_write_of_idle hk hi, hp, hch, hl]
  rfl

/-! ### `START_READ` -/

/-- A busy transceiver does not accept a read (R212). -/
theorem exec_startRead_of_busy (hk : s.trx[k]? = some t) (hb : t.state ≠ .idle) (tm : Word64) :
    exec (.startRead k tm) s = .next s.notAccept :=
  (onTrx_some hk _).trans (if_pos hb)

/-- An idle one does (R212). -/
theorem exec_startRead_of_idle (hk : s.trx[k]? = some t) (hi : t.state = .idle) (tm : Word64) :
    exec (.startRead k tm) s = .next (s.setTrx k (t.acceptRead s.cfg s.now tm)).accept :=
  (onTrx_some hk _).trans (if_neg (not_not.2 hi))

end

end Sys2Proof.Machine

/-! PROOFS. The statements about `WRITE`, `LINE_CHECK` and `START_READ` (spec/44_transceiver_commands.md). -/

namespace Sys2Proof.Machine

/-- Settles O23: each premise decides the checks up to its own. -/
theorem writeChecksInOrder : Obligations.WriteChecksInOrder := by
  intro s k t p a tm ch hk
  refine ⟨fun hb => exec_write_of_busy hk hb p a tm ch, fun hi hm => ?_, fun hi hmax hlen hzero => ?_,
    fun hi hmax hlen hch hlow => ?_⟩
  · exact exec_write_of_malformed hk hi (Bool.eq_false_iff.2 (mt (packetValid_iff p).1 hm)) a tm ch
  · obtain ⟨c, rfl, hc⟩ := hzero
    have hz : zeroChunk (some c) = true := beq_iff_eq.2 hc
    exact exec_write_of_zeroChunk hk hi ((packetValid_iff p).2 ⟨hmax, hlen⟩) hz a tm
  · exact exec_write_of_low hk hi ((packetValid_iff p).2 ⟨hmax, hlen⟩) (zeroChunk_eq_false hch) (linesClear_of_low hlow) a tm

/-- Settles O24: no check fails, capture is neither armed nor prepared in `IDLE`, and the budget is the least integer not
below its quotient. -/
theorem writeAcceptedArmsTheTransmitter : Obligations.WriteAcceptedArmsTheTransmitter := by
  intro s k t p a tm ch hk hinv hi hmax hlen hch hhigh
  have hexec := exec_write_of_clear hk hi ((packetValid_iff p).2 ⟨hmax, hlen⟩) (zeroChunk_eq_false hch)
    (linesClear_of_high hhigh) a tm
  rw [Trx.acceptWrite_eq (hinv.idle hi).2 (hinv.notPrepared (by simp [hi]))] at hexec
  obtain ⟨hle, hlt⟩ := ceilDiv_spec (packetTxDuration s.cfg p * (100 + s.cfg.timeoutMarginPercent) +
    100 * chunkGapNs s.cfg p.frame.length.toNat ch) (b := 100000) (by decide)
  refine ⟨chunkGapNs s.cfg p.frame.length.toNat ch, _, writeBudgetUs s.cfg p ch, ?_, ?_, ?_, hle, hlt, hexec⟩
  · rintro rfl
    exact chunkGapNs_none s.cfg _
  · rintro c rfl
    rw [hlen]
    exact chunkGapNs_some s.cfg _ (hch c rfl)
  · rw [packetTxDuration, hlen]

/-- Settles O27: the answer is the line check of the samples. -/
theorem lineCheckSeesALowLine : Obligations.LineCheckSeesALowLine :=
  fun s _ _ hk => ⟨s.linesClear, onTrx_some hk _, linesClear_iff s⟩

/-- Settles O28: the state check alone decides. -/
theorem startReadArmsCapture : Obligations.StartReadArmsCapture :=
  fun _ _ _ tm hk => ⟨fun hb => exec_startRead_of_busy hk hb tm, fun hi => exec_startRead_of_idle hk hi tm⟩

end Sys2Proof.Machine

/-! SUPPORT. The act step of `PROCESS_EVENTS` branch by branch, that it never reads `STATE`, and the rows of its results (R216
to R236). -/

namespace Sys2Proof.Machine

/-! ### The branches of the act step -/

section
variable {c : Cfg} {q : Poll} {t : Trx}

/-- The snapshot `IDLE` (R220). -/
theorem Trx.act_of_idle (hq : q.snap = .idle) : t.act c q = .ok (t.reportPhase .idle) := by
  simp [Trx.act, hq]

/-- The snapshot `WRITE_COMPLETE` (R222). -/
theorem Trx.act_of_writeComplete (hq : q.snap = .writeComplete) :
    t.act c q = .ok ({ t with state := .idle }.reportPhase .writeComplete) := by
  simp [Trx.act, hq]

/-- The snapshot `READ_IN_PROGRESS` (R229). -/
theorem Trx.act_of_readInProgress (hq : q.snap = .readInProgress) : t.act c q = .ok (t.actReadInProgress c q.now) := by
  simp [Trx.act, hq]

/-- The snapshots that are tested against the deadline (R232). -/
def deadlineSnaps : List TState := [.writeInProgress, .waitingForReadStart, .writeFailed, .readFailed]

/-- Their branch (R232). -/
theorem Trx.act_of_deadlineSnaps (hq : q.snap ∈ deadlineSnaps) : t.act c q = .ok (t.actDeadline q.now q.snap) := by
  simp only [deadlineSnaps, List.mem_cons, List.not_mem_nil, or_false] at hq
  rcases hq with hq | hq | hq | hq <;> simp [Trx.act, hq]

/-! ### A read under way (R229 to R231) -/

/-- A full buffer is an overflow (R229). -/
theorem Trx.actReadInProgress_of_full (hf : c.rxBufferWords ≤ t.rxCount) (now : Word64) :
    t.actReadInProgress c now = t.rxStop.reportFailure .readFailed .bufferOverflow :=
  if_pos hf

/-- A counter that stood still past the window is a timeout (R230). -/
theorem Trx.actReadInProgress_of_stalled (hf : t.rxCount < c.rxBufferWords) (hs : t.rxCount = t.lastProgress) {now : Word64}
    (hw : t.lastProgressTime.toNat + c.interWordTimeoutUs < now.toNat) :
    t.actReadInProgress c now = t.rxStop.reportFailure .readFailed .timeout :=
  (if_neg (not_le.2 hf)).trans (if_pos ⟨hs, hw⟩)

/-- Within the window the read goes on (R231). -/
theorem Trx.actReadInProgress_of_still (hf : t.rxCount < c.rxBufferWords) (hs : t.rxCount = t.lastProgress) {now : Word64}
    (hw : now.toNat ≤ t.lastProgressTime.toNat + c.interWordTimeoutUs) :
    t.actReadInProgress c now = t.reportPhase .readInProgress :=
  (if_neg (not_le.2 hf)).trans ((if_neg fun h => not_lt.2 hw h.2).trans (if_pos hs))

/-- A counter that moved has the marker follow it (R231). -/
theorem Trx.actReadInProgress_of_moved (hf : t.rxCount < c.rxBufferWords) (hm : t.rxCount ≠ t.lastProgress) (now : Word64) :
    t.actReadInProgress c now =
      { t with lastProgress := t.rxCount, lastProgressTime := now }.reportPhase .readInProgress :=
  (if_neg (not_le.2 hf)).trans ((if_neg fun h => hm h.1).trans (if_neg hm))

/-! ### The deadline (R232 to R235) -/

/-- A deadline before `now` has passed (R232). -/
theorem Trx.expired_of_lt {now : Word64} {d : Nat} (hd : t.deadline = some d) (hlt : d < now.toNat) :
    t.expired now = true := by
  simpa [Trx.expired, hd] using hlt

/-- No deadline, or one not before `now`, has not (R232). -/
theorem Trx.expired_eq_false {now : Word64} (h : ∀ d, t.deadline = some d → now.toNat ≤ d) : t.expired now = false := by
  unfold Trx.expired
  split
  · rfl
  · exact decide_eq_false (not_lt.2 (h _ ‹_›))

/-- Before the deadline the phase is reported (R235). -/
theorem Trx.actDeadline_of_not_expired {now : Word64} (he : t.expired now = false) (snap : TState) :
    t.actDeadline now snap = t.reportPhase snap := by
  simp [Trx.actDeadline, he]

/-- Past it the wait for a response ends (R233). -/
theorem Trx.actDeadline_of_waiting {now : Word64} (he : t.expired now = true) :
    t.actDeadline now .waitingForReadStart = t.rxStop.reportFailure .readFailed .timeout := by
  simp [Trx.actDeadline, he]

/-- Past it every other snapshot ends as a write (R234). -/
theorem Trx.actDeadline_of_writing {now : Word64} (he : t.expired now = true) {snap : TState}
    (hs : snap ≠ .waitingForReadStart) : t.actDeadline now snap =
      (t.txStop.rxStop.dirSet .input).reportFailure .writeFailed .timeout := by
  simp [Trx.actDeadline, he, hs]

/-! ### A frame that ended (R224 to R228) -/

/-- No word at all is missing data (R225). -/
theorem Trx.validate_of_empty (hn : t.rxCount = 0) : t.validate = .ok ⟨.readFailed, [], 0, .missingData⟩ :=
  if_pos hn

/-- Fewer words than the declared length and two more are missing data (R226). -/
theorem Trx.validate_of_short (hb : t.rxbuf.length = t.rxCount) {f : Word32} {rest : List Word32}
    (hf : t.rxbuf = f :: rest) (hs : t.rxbuf.length < (frameOfWord f).length.toNat + 2) :
    t.validate = .ok ⟨.readFailed, [], 0, .missingData⟩ := by
  obtain ⟨r, hr, ⟨hnil, -⟩ | ⟨g, tl, len, hcons, rfl, h⟩⟩ := Trx.validate_spec hb
  · cases hf.symm.trans hnil
  · cases hf.symm.trans hcons
    obtain ⟨-, rfl⟩ | ⟨w, hw, -⟩ := h
    · exact hr
    · obtain ⟨hlt, -⟩ := List.getElem?_eq_some_iff.1 hw
      omega

/-- With enough words the checksum decides (R227, R228). -/
theorem Trx.validate_of_enough (hb : t.rxbuf.length = t.rxCount) {f w : Word32} {rest : List Word32}
    (hf : t.rxbuf = f :: rest) (hw : t.rxbuf[(frameOfWord f).length.toNat + 1]? = some w) : t.validate = .ok (
      if checksumWords (t.rxbuf.take ((frameOfWord f).length.toNat + 1)) = lowByte w then
        ⟨.readComplete, t.rxbuf.take ((frameOfWord f).length.toNat + 1), (frameOfWord f).length.toNat + 1, .none⟩
      else ⟨.readFailed, [], 0, .crcInvalid⟩) := by
  obtain ⟨r, hr, ⟨hnil, -⟩ | ⟨g, tl, len, hcons, rfl, h⟩⟩ := Trx.validate_spec hb
  · cases hf.symm.trans hnil
  · cases hf.symm.trans hcons
    obtain ⟨hlt, -⟩ | ⟨v, hv, h⟩ := h
    · obtain ⟨hge, -⟩ := List.getElem?_eq_some_iff.1 hw
      omega
    · cases hw.symm.trans hv
      rw [hr]
      obtain ⟨hne, rfl⟩ | ⟨he, rfl⟩ := h
      · rw [if_neg hne]
      · rw [if_pos he]

/-! ### `STATE` is not read again (R216) -/

/-- Of two machines whose `STATE` was `a` and `b`, the transceivers left differ at most in that `STATE`, which both have as
`IDLE` or neither wrote. -/
def Trx.SameButState (a b : TState) (u v : Trx) : Prop :=
  v = { u with state := v.state } ∧ (u.state = .idle ∧ v.state = .idle ∨ u.state = a ∧ v.state = b)

/-- A drain does not read `STATE` (R224). -/
theorem Trx.drain_setState (ht : t.storesWf c) (x : TState) :
    { t with state := x }.drain c = { t.drain c with state := x } := by
  obtain ⟨hb, hr, -⟩ := ht
  rw [Trx.drain_spec hb hr, Trx.drain_spec (t := { t with state := x }) hb hr]

/-- Nor does the branch of a read under way (R229 to R231). -/
theorem Trx.actReadInProgress_sameButState (c : Cfg) (now : Word64) (t : Trx) (x : TState) :
    SameButState t.state x (t.actReadInProgress c now) ({ t with state := x }.actReadInProgress c now) := by
  by_cases hf : c.rxBufferWords ≤ t.rxCount
  · rw [Trx.actReadInProgress_of_full hf, Trx.actReadInProgress_of_full (t := { t with state := x }) hf]
    exact ⟨rfl, .inl ⟨rfl, rfl⟩⟩
  have hroom := not_le.1 hf
  by_cases hm : t.rxCount = t.lastProgress
  · by_cases hw : t.lastProgressTime.toNat + c.interWordTimeoutUs < now.toNat
    · rw [Trx.actReadInProgress_of_stalled hroom hm hw,
        Trx.actReadInProgress_of_stalled (t := { t with state := x }) hroom hm hw]
      exact ⟨rfl, .inl ⟨rfl, rfl⟩⟩
    · rw [Trx.actReadInProgress_of_still hroom hm (not_lt.1 hw),
        Trx.actReadInProgress_of_still (t := { t with state := x }) hroom hm (not_lt.1 hw)]
      exact ⟨rfl, .inr ⟨rfl, rfl⟩⟩
  · rw [Trx.actReadInProgress_of_moved hroom hm, Trx.actReadInProgress_of_moved (t := { t with state := x }) hroom hm]
    exact ⟨rfl, .inr ⟨rfl, rfl⟩⟩

/-- Nor do the branches of the deadline (R232 to R235). -/
theorem Trx.actDeadline_sameButState (now : Word64) (snap : TState) (t : Trx) (x : TState) :
    SameButState t.state x (t.actDeadline now snap) ({ t with state := x }.actDeadline now snap) := by
  have hx : { t with state := x }.expired now = t.expired now := rfl
  unfold Trx.actDeadline
  rw [hx]
  split
  · split <;> exact ⟨rfl, .inl ⟨rfl, rfl⟩⟩
  · exact ⟨rfl, .inr ⟨rfl, rfl⟩⟩

/-- Every snapshot is that of one of the five branches (R218). -/
theorem TState.branch (x : TState) : x = .idle ∨ x = .writeComplete ∨ x = .readInProgress ∨ x = .readComplete ∨
    x ∈ deadlineSnaps := by
  cases x <;> decide

/-- Nor does any branch of the act step, with the stores in their form (R216). -/
theorem Trx.act_sameButState (ht : t.storesWf c) (q : Poll) (x : TState) : ∃ u v, t.act c q = .ok u ∧
    { t with state := x }.act c q = .ok v ∧ SameButState t.state x u v := by
  obtain hq | hq | hq | hq | hq := q.snap.branch
  · exact ⟨_, _, Trx.act_of_idle hq, Trx.act_of_idle hq, rfl, .inr ⟨rfl, rfl⟩⟩
  · exact ⟨_, _, Trx.act_of_writeComplete hq, Trx.act_of_writeComplete hq, rfl, .inl ⟨rfl, rfl⟩⟩
  · exact ⟨_, _, Trx.act_of_readInProgress hq, Trx.act_of_readInProgress hq, t.actReadInProgress_sameButState c q.now x⟩
  · have hd := Trx.drain_setState ht x
    obtain ⟨r, hr, -⟩ := Trx.validate_spec (t := t.drain c) (Trx.storesWf_drain ht).1
    have hx : ({ t with state := x }.drain c).validate = .ok r := by
      rw [hd]
      exact hr
    refine ⟨_, _, Trx.act_of_readComplete hq hr, Trx.act_of_readComplete hq hx, ?_, .inl ⟨rfl, rfl⟩⟩
    rw [hd]
  · exact ⟨_, _, Trx.act_of_deadlineSnaps hq, Trx.act_of_deadlineSnaps hq, t.actDeadline_sameButState q.now q.snap x⟩

/-! ### The results (R236) -/

/-- The snapshot, the phase and the reason in each row of the table (R236). -/
def resultRows : List (TState × TState × FailureReason) := [
  (.idle, .idle, .none),
  (.writeInProgress, .writeInProgress, .none), (.writeInProgress, .writeFailed, .timeout),
  (.writeComplete, .writeComplete, .none),
  (.waitingForReadStart, .waitingForReadStart, .none), (.waitingForReadStart, .readFailed, .timeout),
  (.readInProgress, .readFailed, .bufferOverflow), (.readInProgress, .readFailed, .timeout),
  (.readInProgress, .readInProgress, .none),
  (.readComplete, .readFailed, .missingData), (.readComplete, .readFailed, .crcInvalid),
  (.readComplete, .readComplete, .none),
  (.writeFailed, .writeFailed, .timeout), (.readFailed, .writeFailed, .timeout),
  (.writeFailed, .writeFailed, .none), (.readFailed, .readFailed, .none)]

/-- The result `r` stands in the table for a call with this snapshot, and exposes a buffer of the length it states exactly
where a frame was read (R236). -/
def Res.InTable (snap : TState) (r : Res) : Prop :=
  (snap, r.phase, r.failureReason) ∈ resultRows ∧ r.readBufferLen = r.readBuffer.length ∧
    (r.readBuffer ≠ [] ↔ snap = .readComplete ∧ r.failureReason = .none)

/-- A result without words. -/
theorem Res.inTable_of_empty {snap ph : TState} {fr : FailureReason} (h : (snap, ph, fr) ∈ resultRows)
    (hn : ¬(snap = .readComplete ∧ fr = .none)) : Res.InTable snap ⟨ph, [], 0, fr⟩ :=
  ⟨h, rfl, by simpa using hn⟩

/-- The words of a frame as the result (R228). -/
theorem Res.inTable_of_frame {ws : List Word32} (hn : ws ≠ []) :
    Res.InTable .readComplete ⟨.readComplete, ws, ws.length, .none⟩ :=
  ⟨show (TState.readComplete, TState.readComplete, FailureReason.none) ∈ resultRows by decide, rfl, by simpa using hn⟩

/-- A validated frame has one of three rows (R225 to R228). -/
theorem Trx.validate_inTable {r : Res} (hb : t.rxbuf.length = t.rxCount) (hr : t.validate = .ok r) :
    Res.InTable .readComplete r := by
  obtain ⟨r', hr', h⟩ := Trx.validate_spec hb
  cases hr.symm.trans hr'
  obtain ⟨-, rfl⟩ | ⟨f, rest, len, hf, -, ⟨-, rfl⟩ | ⟨w, hw, ⟨-, rfl⟩ | ⟨-, rfl⟩⟩⟩ := h
  · exact Res.inTable_of_empty (by decide) (by decide)
  · exact Res.inTable_of_empty (by decide) (by decide)
  · exact Res.inTable_of_empty (by decide) (by decide)
  · obtain ⟨hlt, -⟩ := List.getElem?_eq_some_iff.1 hw
    have hlen : (t.rxbuf.take (len + 1)).length = len + 1 := by
      rw [List.length_take]
      omega
    have h := Res.inTable_of_frame (List.ne_nil_of_length_eq_add_one hlen)
    rwa [hlen] at h

/-- A read under way has one of three rows (R229 to R231). -/
theorem Trx.actReadInProgress_inTable (c : Cfg) (now : Word64) (t : Trx) :
    Res.InTable .readInProgress (t.actReadInProgress c now).res := by
  unfold Trx.actReadInProgress
  split
  · exact Res.inTable_of_empty (by decide) (by decide)
  · split
    · exact Res.inTable_of_empty (by decide) (by decide)
    · split <;> exact Res.inTable_of_empty (by decide) (by decide)

/-- The deadline gives one of two rows for each snapshot it is tested for (R232 to R235). -/
theorem Trx.actDeadline_inTable (now : Word64) {snap : TState} (hs : snap ∈ deadlineSnaps) (t : Trx) :
    Res.InTable snap (t.actDeadline now snap).res := by
  have hn : snap ≠ .readComplete := fun h => absurd (h ▸ hs) (by decide)
  have hphase : (snap, snap, FailureReason.none) ∈ resultRows := by
    revert snap
    decide
  have hwrite : snap ≠ .waitingForReadStart → (snap, TState.writeFailed, FailureReason.timeout) ∈ resultRows := by
    revert snap
    decide
  unfold Trx.actDeadline
  split
  · split
    · subst snap
      exact Res.inTable_of_empty (by decide) (by decide)
    · exact Res.inTable_of_empty (hwrite ‹_›) fun h => hn h.1
  · exact Res.inTable_of_empty hphase fun h => hn h.1

/-- Every act step reports a row of the table, with the stores in their form (R236). -/
theorem Trx.act_inTable (ht : t.storesWf c) (q : Poll) : ∃ u, t.act c q = .ok u ∧ Res.InTable q.snap u.res := by
  obtain hq | hq | hq | hq | hq := q.snap.branch
  · refine ⟨_, Trx.act_of_idle hq, ?_⟩
    rw [hq]
    exact Res.inTable_of_empty (by decide) (by decide)
  · refine ⟨_, Trx.act_of_writeComplete hq, ?_⟩
    rw [hq]
    exact Res.inTable_of_empty (by decide) (by decide)
  · exact ⟨_, Trx.act_of_readInProgress hq, hq ▸ t.actReadInProgress_inTable c q.now⟩
  · have hb := (Trx.storesWf_drain ht).1
    obtain ⟨r, hr, -⟩ := Trx.validate_spec hb
    exact ⟨_, Trx.act_of_readComplete hq hr, hq ▸ Trx.validate_inTable hb hr⟩
  · exact ⟨_, Trx.act_of_deadlineSnaps hq, t.actDeadline_inTable q.now hq⟩

end

end Sys2Proof.Machine

/-! PROOFS. The statements about `PROCESS_EVENTS` (spec/44_transceiver_commands.md). -/

namespace Sys2Proof.Machine

/-- Settles O29: with no call open the operation is the snapshot step. -/
theorem snapshotReadsStateOnce : Obligations.SnapshotReadsStateOnce := by
  intro s k t now hk hp
  simp only [exec, execProcessEvents, onTrx_some hk, hp]
  rfl

/-- Settles O30: each snapshot has its branch. -/
theorem actOnIdleAndWriteComplete : Obligations.ActOnIdleAndWriteComplete :=
  fun _ _ _ _ _ hk hp => ⟨fun hq => execProcessEvents_act hk hp (Trx.act_of_idle hq),
    fun hq => execProcessEvents_act hk hp (Trx.act_of_writeComplete hq)⟩

/-- Settles O31: the four clauses are the four outcomes of the branch. -/
theorem actOnReadInProgress : Obligations.ActOnReadInProgress := by
  intro s k t q now hk hp hq
  have hexec : ∀ u, t.actReadInProgress s.cfg q.now = u → exec (.processEvents k now) s = .next (afterAct s k u) :=
    fun u hu => execProcessEvents_act hk hp (hu ▸ Trx.act_of_readInProgress hq)
  refine ⟨fun hf => ?_, fun hf hs hw => ?_, fun hf hs hw => ?_, fun hf hm => ?_⟩
  · exact hexec _ (Trx.actReadInProgress_of_full hf q.now)
  · exact hexec _ (Trx.actReadInProgress_of_stalled hf hs hw)
  · exact hexec _ (Trx.actReadInProgress_of_still hf hs hw)
  · exact hexec _ (Trx.actReadInProgress_of_moved hf hm q.now)

/-- Settles O32: whether the deadline has passed, and then which snapshot it was, decides. -/
theorem actOnDeadline : Obligations.ActOnDeadline := by
  intro s k t q now hk hp hq
  have hexec : ∀ u, t.actDeadline q.now q.snap = u → exec (.processEvents k now) s = .next (afterAct s k u) :=
    fun u hu => execProcessEvents_act hk hp (hu ▸ Trx.act_of_deadlineSnaps hq)
  refine ⟨fun hd => ?_, fun d hd hlt => ⟨fun hs => ?_, fun hs => ?_⟩⟩
  · exact hexec _ (Trx.actDeadline_of_not_expired (Trx.expired_eq_false hd) q.snap)
  · exact hexec _ (hs ▸ Trx.actDeadline_of_waiting (Trx.expired_of_lt hd hlt))
  · exact hexec _ (Trx.actDeadline_of_writing (Trx.expired_of_lt hd hlt) hs)

/-- Settles O33: the drain leaves `words` in the buffer, and the result is what their validation answers. -/
theorem actOnReadComplete : Obligations.ActOnReadComplete := by
  intro s k t q now hk hp hq ht words hwords after hafter
  obtain ⟨hb, hroom, -⟩ := ht
  have hdrain := Trx.drain_spec hb hroom
  rw [← hwords] at hdrain
  have hexec : ∀ r, (t.drain s.cfg).validate = .ok r → exec (.processEvents k now) s = .next (afterAct s k (after r)) := by
    intro r hr
    have hexec := execProcessEvents_act (now := now) hk hp (Trx.act_of_readComplete hq hr)
    rw [hdrain] at hexec
    rw [hafter]
    exact hexec
  have hbuf : (t.drain s.cfg).rxbuf = words := by rw [hdrain]
  have hcount : (t.drain s.cfg).rxbuf.length = (t.drain s.cfg).rxCount := by rw [hdrain]
  rw [← hbuf]
  refine ⟨fun hnil => ?_, fun f rest hf len hlen => ?_⟩
  · exact hexec _ (Trx.validate_of_empty (by rw [← hcount, hnil]; rfl))
  · rw [← frameOfWord_length_toNat] at hlen
    subst hlen
    refine ⟨fun hs => hexec _ (Trx.validate_of_short hcount hf hs), fun c hc => ?_⟩
    have hval := Trx.validate_of_enough hcount hf hc
    rw [lowByte_eq_setWidth] at hval
    refine ⟨fun hne => ?_, fun he => ?_⟩
    · exact hexec _ (by rw [hval, if_neg hne])
    · exact hexec _ (by rw [hval, if_pos he])

/-- Settles O34: no branch of the act step reads `STATE`, and the branch is chosen by the snapshot. -/
theorem actNeverReadsState : Obligations.ActNeverReadsState := by
  intro s k t q now other hk hp ht
  obtain ⟨u, v, hu, hv, heq, hstate⟩ := Trx.act_sameButState ht q other
  have hk' : (s.trx.set k { t with state := other })[k]? = some { t with state := other } :=
    List.getElem?_set_self (List.getElem?_eq_some_iff.1 hk).1
  exact ⟨u, v, execProcessEvents_act hk hp hu, execProcessEvents_act hk' hp hv, by rw [heq], heq, hstate⟩

/-- Settles O35: each branch reports rows of its own snapshot. -/
theorem resultsOfProcessEventsAreTheTable : Obligations.ResultsOfProcessEventsAreTheTable := by
  intro s k t q now hk hp ht
  obtain ⟨u, hu, hrow⟩ := Trx.act_inTable ht q
  exact ⟨u, execProcessEvents_act hk hp hu, hrow⟩

end Sys2Proof.Machine

/-! SUPPORT. When an open call is resumed, and when it stands in the way of a command (R200, R216). -/

namespace Sys2Proof.Machine

/-- A resumed call that is open is its act step, with its own `now` (R216). -/
theorem resumeCall_of_open {s : State} {k : Nat} {q : Poll} (h : s.openCall k = some q) :
    resumeCall k s = .run (.processEvents k q.now) s := by
  simp [resumeCall, h]

/-- The opcodes of the transceiver commands (R91). -/
theorem opClass_eq_three {op : Byte} (hlo : 0x30 ≤ op.toNat) (hhi : op.toNat < 0x40) : opClass op = 3 := by
  unfold opClass
  omega

/-- An open call stands in the way of the foreground's commands to its transceiver (R200). -/
theorem callInTheWay_of_open {r : Request} {s : State} {op : Byte} {k : Nat} {x : Operands} {q : Poll}
    (ha : r.agent = .foreground) (hp : r.port = .command op k x) (h3 : opClass op = 3) (h : s.openCall k = some q) :
    callInTheWay r s = some k := by
  simp [callInTheWay, ha, hp, h3, h]

end Sys2Proof.Machine

/-! PROOFS. The order of an open call and the commands to its transceiver (R200, R216). -/

namespace Sys2Proof.Machine

/-- Settles O55: the next move of each kind of turn; an open call comes before the command that is presented. -/
theorem openCallEndsBeforeTheNextCommand : Obligations.OpenCallEndsBeforeTheNextCommand := by
  refine ⟨fun s k q rest hturns ho => ?_, fun s k q r rest op x hturns ha hp hlo hhi ho => ?_, fun s hturns => ?_⟩
  · have hopen : { s with turns := rest }.openCall k = some q := ho
    simp only [step, nextMove, hturns, resumeCall_of_open hopen]
  · simp only [step, nextMove, hturns, callInTheWay_of_open ha hp (opClass_eq_three hlo hhi) ho, resumeCall_of_open ho]
  · simp only [step, nextMove, hturns]

end Sys2Proof.Machine

/-! SUPPORT. What the hardware events, the environment's steps and the primitives answer on a transceiver that exists, and
what the handlers and the shifter do to it in each of their situations (R262 to R288). -/

namespace Sys2Proof.Machine

section
variable {s : State} {k : Nat} {t : Trx}

/-! ### The transmit-complete handler (R262, R264) -/

/-- The event is enabled on an armed shifter that has consumed the whole sequence (R264). -/
theorem Trx.txDoneEnabled_iff (t : Trx) : t.txDoneEnabled = true ↔ t.txArmed = true ∧ t.txPos = t.txseq.length := by
  simp [Trx.txDoneEnabled]

/-- With a response expected the handler starts the read (R262). -/
theorem Trx.onTxDone_of_respExpected (h : t.respExpected = true) (c : Cfg) (now : Nat) : t.onTxDone c now =
    { (t.txStop.rxStart.dirSet .input) with deadline := deadlineFrom c now t.readTimeout, state := .waitingForReadStart } :=
  if_pos h

/-- Without one it completes the write (R262). -/
theorem Trx.onTxDone_of_not_respExpected (h : t.respExpected = false) (c : Cfg) (now : Nat) :
    t.onTxDone c now = { t.txStop with state := .writeComplete } :=
  if_neg (Bool.eq_false_iff.1 h)

/-- The enabled event runs the handler (R262). -/
theorem exec_evTxdone_of_enabled (hk : s.trx[k]? = some t) (ha : t.txArmed = true) (hend : t.txPos = t.txseq.length) :
    exec (.evTxdone k) s = .next (s.setTrx k (t.onTxDone s.cfg s.now)) :=
  (onTrx_some hk _).trans (if_pos (t.txDoneEnabled_iff.2 ⟨ha, hend⟩))

/-- One that is not enabled has no effect (log entry 19). -/
theorem exec_evTxdone_of_not_enabled (hk : s.trx[k]? = some t) (h : t.txArmed = false ∨ t.txPos ≠ t.txseq.length) :
    exec (.evTxdone k) s = .next s := by
  have hn : ¬ t.txDoneEnabled = true := by
    rw [Trx.txDoneEnabled_iff, not_and_or, Bool.not_eq_true]
    exact h
  exact (onTrx_some hk _).trans (if_neg hn)

/-! ### The receive handler (R266, R267) -/

/-- The first signal starts the frame (R266). -/
theorem Trx.onRxSig_of_waiting (h : t.state = .waitingForReadStart) (now : Word64) :
    t.onRxSig now = { t with lastProgress := t.rxCount, lastProgressTime := now, state := .readInProgress } := by
  simp only [Trx.onRxSig, h, Trx.rxProgress]

/-- The second ends it (R266). -/
theorem Trx.onRxSig_of_reading (h : t.state = .readInProgress) (now : Word64) :
    t.onRxSig now = { t.rxStop with state := .readComplete } := by
  simp only [Trx.onRxSig, h]

/-- A signal in any other state has no effect (R266). -/
theorem Trx.onRxSig_of_other (hw : t.state ≠ .waitingForReadStart) (hr : t.state ≠ .readInProgress) (now : Word64) :
    t.onRxSig now = t := by
  unfold Trx.onRxSig
  split
  · exact absurd ‹_› hw
  · exact absurd ‹_› hr
  · rfl

/-- A signal with capture armed runs the handler (R267). -/
theorem exec_evRxsig_of_armed (hk : s.trx[k]? = some t) (ha : t.rxArmed = true) :
    exec (.evRxsig k) s = .next (s.setTrx k (t.onRxSig s.time)) :=
  (onTrx_some hk _).trans (if_pos ha)

/-- One with capture not armed has no effect (log entry 19). -/
theorem exec_evRxsig_of_not_armed (hk : s.trx[k]? = some t) (ha : t.rxArmed = false) : exec (.evRxsig k) s = .next s :=
  (onTrx_some hk _).trans (if_neg (Bool.eq_false_iff.1 ha))

/-! ### The steps of the environment (R268 to R272) -/

/-- A shifter that is not armed, or has consumed the whole sequence, has no effect (log entry 19). -/
theorem Trx.shift_disabled (h : t.txArmed = false ∨ t.txseq.length ≤ t.txPos) : t.shift = t := by
  obtain ha | hend := h
  · exact if_neg (Bool.eq_false_iff.1 ha)
  · have hread : t.txRead t.txPos = none := List.getElem?_eq_none hend
    simp [Trx.shift, hread]

/-- A step of the shifter (R268). -/
theorem exec_enTxShift (hk : s.trx[k]? = some t) : exec (.enTxShift k) s = .next (s.setTrx k t.shift) :=
  onTrx_some hk _

/-- A word comes off the bus as it was sent (R270). -/
theorem exec_enRxCapture (hk : s.trx[k]? = some t) (w : Word32) :
    exec (.enRxCapture k w) s = .next (s.setTrx k (t.capture w)) := by
  simp only [exec, execEnRxCapture, onTrx_some hk, offBus_word]

/-- A transfer (R272). -/
theorem exec_enRxTransfer (hk : s.trx[k]? = some t) : exec (.enRxTransfer k) s = .next (s.setTrx k (t.transfer s.cfg)) :=
  onTrx_some hk _

/-! ### The primitives that read (R282, R286) -/

/-- The transmitter is idle where it is not armed (R282). -/
theorem Trx.txIsIdle_eq (t : Trx) : t.txIsIdle = decide (t.txArmed = false) := by
  simp [Trx.txIsIdle]

/-- Capture is idle where it is not armed (R286). -/
theorem Trx.rxIsIdle_eq (t : Trx) : t.rxIsIdle = decide (t.rxArmed = false) := by
  simp [Trx.rxIsIdle]

end

end Sys2Proof.Machine

/-! PROOFS. The statements about the hardware events, the environment's steps and the primitives
(spec/45_transceiver_events.md). -/

namespace Sys2Proof.Machine

/-- Settles O37: the enabled event runs the handler, which a response expected or not decides. -/
theorem txDoneHandlerEffect : Obligations.TxDoneHandlerEffect := by
  intro s k t hk
  refine ⟨fun ha hend hresp => ?_, fun ha hend hresp => ?_, exec_evTxdone_of_not_enabled hk⟩
  · rw [exec_evTxdone_of_enabled hk ha hend, Trx.onTxDone_of_respExpected hresp]
    rfl
  · rw [exec_evTxdone_of_enabled hk ha hend, Trx.onTxDone_of_not_respExpected hresp]
    rfl

/-- Settles O38: with capture armed the handler runs and `STATE` decides which signal it is; with capture not armed no
handler runs. -/
theorem rxSigHandlerEffect : Obligations.RxSigHandlerEffect := by
  intro s k t hk
  refine ⟨fun ha hs => ?_, fun ha hs => ?_, fun h => ?_⟩
  · rw [exec_evRxsig_of_armed hk ha, Trx.onRxSig_of_waiting hs]
    rfl
  · rw [exec_evRxsig_of_armed hk ha, Trx.onRxSig_of_reading hs]
    rfl
  · cases ha : t.rxArmed with
    | false => exact exec_evRxsig_of_not_armed hk ha
    | true =>
      obtain ⟨hw, hr⟩ := h.resolve_left (by simp [ha])
      rw [exec_evRxsig_of_armed hk ha, Trx.onRxSig_of_other hw hr, State.setTrx_self hk]

/-- Settles O39: the shifter sends the item at its position, where there is one and it is armed. -/
theorem shifterSendsTheNextItem : Obligations.ShifterSendsTheNextItem := by
  intro s k t hk
  refine ⟨fun item ha hi => ?_, fun h => ?_⟩
  · rw [exec_enTxShift hk, Trx.shift_of_armed ha hi]
    cases item <;> rfl
  · rw [exec_enTxShift hk, Trx.shift_disabled h, State.setTrx_self hk]

/-- Settles O40: the capture unit takes the word only where it is armed, and a transfer stores one only where one is queued
and fits. -/
theorem captureAndTransferEffect : Obligations.CaptureAndTransferEffect := by
  intro s k t w hk
  refine ⟨fun ha => ?_, fun ha => ?_, fun v rest hf hr hb => ?_, fun h => ?_⟩
  · rw [exec_enRxCapture hk, Trx.capture_of_armed ha]
    rfl
  · rw [exec_enRxCapture hk, Trx.capture_of_not_armed ha, State.setTrx_self hk]
  · rw [exec_enRxTransfer hk, Trx.transfer_cons hf hb hr]
    rfl
  · rw [exec_enRxTransfer hk, Trx.transfer_disabled h, State.setTrx_self hk]

/-- Settles O42: each primitive is its update of the instance that its selector names. -/
theorem primitivesWriteTheirOwnFields : Obligations.PrimitivesWriteTheirOwnFields :=
  fun _ _ _ _ hk => ⟨onTrx_some hk _, onTrx_some hk _, onTrx_some hk _, onTrx_some hk _, onTrx_some hk _, onTrx_some hk _⟩

/-- Settles O43: each answers what it reads of the instance that its selector names. -/
theorem primitivesReadTheirOwnFields : Obligations.PrimitivesReadTheirOwnFields := by
  intro s k t hk
  rw [← Trx.txIsIdle_eq, ← Trx.rxIsIdle_eq]
  exact ⟨onTrx_some hk _, onTrx_some hk _, onTrx_some hk _⟩

end Sys2Proof.Machine

/-! SUPPORT. What an act step that reports a failure leaves (R302), and that an operation on a transceiver reads and writes
that transceiver alone (R328). -/

namespace Sys2Proof.Machine

/-! ### A failure report (R302) -/

/-- The act step closes its call (R39, R218). -/
theorem Trx.act_poll {c : Cfg} {q : Poll} {t u : Trx} (h : t.act c q = .ok u) : u.poll = none := by
  cases Trx.act_cases h with
  | reported | readDone | writeDone | readFailed | writeFailed => rfl

/-- Only a branch that writes `IDLE` to `STATE` reports a failure (R302). -/
theorem Trx.act_state_of_failure {c : Cfg} {q : Poll} {t u : Trx} (h : t.act c q = .ok u)
    (hf : u.res.failureReason ≠ .none) : u.state = .idle := by
  cases Trx.act_cases h with
  | reported => exact absurd rfl hf
  | readDone | writeDone | readFailed | writeFailed => rfl

/-- In the table a row with a reason has one of the two failed phases (R236). -/
theorem failedPhase_of_mem_resultRows : ∀ row ∈ resultRows, row.2.2 ≠ .none →
    row.2.1 = .writeFailed ∨ row.2.1 = .readFailed := by
  decide

/-- A result of the table that gives a reason has a failed phase and holds no words (R236, R302). -/
theorem Res.InTable.of_failure {snap : TState} {r : Res} (h : r.InTable snap) (hf : r.failureReason ≠ .none) :
    r.readBuffer = [] ∧ r.readBufferLen = 0 ∧ (r.phase = .writeFailed ∨ r.phase = .readFailed) := by
  obtain ⟨hrow, hlen, hbuf⟩ := h
  have hnil : r.readBuffer = [] := by_contra fun hne => hf (hbuf.1 hne).2
  exact ⟨hnil, by rw [hlen, hnil]; rfl, failedPhase_of_mem_resultRows _ hrow hf⟩

/-- A transceiver at rest has both units stopped and no capture prepared (R46). -/
theorem Trx.Inv.stopped_of_idle {c : Cfg} {t : Trx} (hi : t.Inv c) (h : t.state = .idle) :
    t.txArmed = false ∧ t.rxArmed = false ∧ t.rxPrepared = false := by
  obtain ⟨htx, hrx⟩ := hi.idle h
  exact ⟨htx, hrx, hi.notPrepared (by simp [h])⟩

/-! ### One transceiver alone (R328) -/

/-- What an operation on transceiver `k` may read is the same in both machines, where that transceiver is `u`. -/
structure SameView (k : Nat) (u : Trx) (s s' : State) : Prop where
  cfg : s'.cfg = s.cfg
  time : s'.time = s.time
  lines : s'.lines = s.lines
  draws : s'.draws = s.draws
  left : s.trx[k]? = some u
  right : s'.trx[k]? = some u

/-- A machine beside itself. -/
theorem SameView.refl {k : Nat} {u : Trx} {s : State} (h : s.trx[k]? = some u) : SameView k u s s :=
  ⟨rfl, rfl, rfl, rfl, h, h⟩

/-- From `s` and `s'` an operation comes out alike on transceiver `k`: both runs end in the same fault or refusal, or both
leave the same transceiver there and wrote beside it at most the result latches, the outcome and the count of draws. -/
inductive AlikeOn (k : Nat) (s s' : State) : Out → Out → Prop
  | next (v : Trx) (y y' : Results) (o o' : PortOutcome) (n n' : Nat) :
      AlikeOn k s s' (.next { s with trx := s.trx.set k v, y := y, outcome := o, draws := n })
        (.next { s' with trx := s'.trx.set k v, y := y', outcome := o', draws := n' })
  | fault (e : Fault) : AlikeOn k s s' (.fault e) (.fault e)
  | refused (r : Refusal) : AlikeOn k s s' (.refused r) (.refused r)

/-- Writing one value to the transceiver in both machines is alike. -/
theorem AlikeOn.written (k : Nat) (s s' : State) (v : Trx) :
    AlikeOn k s s' (.next (s.setTrx k v)) (.next (s'.setTrx k v)) :=
  .next v _ _ _ _ _ _

/-- So is writing it and giving one report. -/
theorem AlikeOn.writtenAndReported (k : Nat) (s s' : State) (v : Trx) (o : PortOutcome) (y : Results) :
    AlikeOn k s s' (.next ((s.setTrx k v).report o y)) (.next ((s'.setTrx k v).report o y)) :=
  .next v _ _ _ _ _ _

/-- So is a report alone. -/
theorem SameView.reported {k : Nat} {u : Trx} {s s' : State} (h : SameView k u s s') (o : PortOutcome) (y : Results) :
    AlikeOn k s s' (.next (s.report o y)) (.next (s'.report o y)) := by
  have hw := AlikeOn.writtenAndReported k s s' u o y
  rwa [State.setTrx_self h.left, State.setTrx_self h.right] at hw

/-- So is no effect at all. -/
theorem SameView.unchanged {k : Nat} {u : Trx} {s s' : State} (h : SameView k u s s') :
    AlikeOn k s s' (.next s) (.next s') := by
  have hw := AlikeOn.written k s s' u
  rwa [State.setTrx_self h.left, State.setTrx_self h.right] at hw

/-- The time an operation reads is the same (R27). -/
theorem SameView.now {k : Nat} {u : Trx} {s s' : State} (h : SameView k u s s') : s'.now = s.now := by
  rw [State.now, h.time, State.now]

/-- The lines an operation samples are the same (R206). -/
theorem SameView.linesClear {k : Nat} {u : Trx} {s s' : State} (h : SameView k u s s') : s'.linesClear = s.linesClear := by
  rw [State.linesClear, h.lines, State.linesClear]

/-- The tail of a frame is taken alike, a free value included, which is numbered by the draws (93 U6; log entry 28). -/
theorem SameView.captureTail {k : Nat} {u : Trx} {s s' : State} (h : SameView k u s s') (tail : Tail) :
    AlikeOn k s s' (.next (s.captureTail k u tail)) (.next (s'.captureTail k u tail)) := by
  unfold State.captureTail
  rw [h.cfg, h.draws]
  split
  · exact .written k s s' _
  · split
    · exact .next _ _ _ _ _ _ _
    · exact h.unchanged

/-- `onTrx` gives both runs the same transceiver. -/
theorem SameView.onTrx {k : Nat} {u : Trx} {s s' : State} (h : SameView k u s s') {f f' : Trx → Out}
    (hf : AlikeOn k s s' (f u) (f' u)) : AlikeOn k s s' (onTrx s k f) (onTrx s' k f') := by
  rwa [onTrx_some h.left, onTrx_some h.right]

/-- Every operation on a transceiver reads nothing but what the two machines share, and writes nothing of either but that
transceiver (R328). -/
theorem exec_alikeOn {i : Instr} {k : Nat} {u : Trx} {s s' : State} (hk : trxOf i = some k) (h : SameView k u s s') :
    AlikeOn k s s' (exec i s) (exec i s') := by
  cases i with
  | write j p a tm ch =>
    cases hk
    refine h.onTrx ?_
    rw [h.cfg, h.now, h.linesClear]
    split
    · exact h.reported _ _
    · split
      · exact .fault _
      · split
        · exact .fault _
        · split
          · exact h.reported _ _
          · exact .writtenAndReported k s s' _ _ _
  | startRead j tm =>
    cases hk
    refine h.onTrx ?_
    rw [h.cfg, h.now]
    split
    · exact h.reported _ _
    · exact .writtenAndReported k s s' _ _ _
  | processEvents j now =>
    cases hk
    refine h.onTrx ?_
    rw [h.cfg]
    split
    · exact .written k s s' _
    · split
      · exact .writtenAndReported k s s' _ _ _
      · exact .fault _
  | evTxdone j =>
    cases hk
    refine h.onTrx ?_
    rw [h.cfg, h.now]
    split
    · exact .written k s s' _
    · exact h.unchanged
  | evRxsig j =>
    cases hk
    refine h.onTrx ?_
    rw [h.time]
    split
    · exact .written k s s' _
    · exact h.unchanged
  | checksumWord j tail =>
    cases hk
    exact h.onTrx (h.captureTail tail)
  | lineCheck j =>
    cases hk
    refine h.onTrx ?_
    rw [h.linesClear]
    exact h.reported _ _
  | hwTxIsidle | hwRxIsidle | hwRxProgress =>
    cases hk
    exact h.onTrx (h.reported _ _)
  | enRxCapture | enRxTransfer | frameWord =>
    cases hk
    refine h.onTrx ?_
    rw [h.cfg]
    exact .written k s s' _
  | enTxShift | hwTxStart | hwTxStop | hwRxPrepare | hwRxStart | hwRxStop | hwDirSet =>
    cases hk
    exact h.onTrx (.written k s s' _)
  | _ => cases hk

/-- Runs that come out alike, the one with a next state, leave the same transceiver. -/
theorem AlikeOn.of_next {k : Nat} {u : Trx} {s s' t : State} {out : Out} (h : AlikeOn k s s' (.next t) out)
    (hv : SameView k u s s') : ∃ t', out = .next t' ∧ t.trx[k]? = t'.trx[k]? := by
  cases h with
  | next v =>
    refine ⟨_, rfl, ?_⟩
    rw [List.getElem?_set_self (List.getElem?_eq_some_iff.1 hv.left).1,
      List.getElem?_set_self (List.getElem?_eq_some_iff.1 hv.right).1]

/-- An operation that answers a next state found the transceiver it acts on (R93). -/
theorem exec_finds_trx {i : Instr} {s t : State} {k : Nat} (hk : trxOf i = some k) (h : exec i s = .next t) :
    ∃ u, s.trx[k]? = some u := by
  refine Option.ne_none_iff_exists'.1 fun hs => ?_
  rw [exec_of_absent hk hs] at h
  cases h

/-- What an operation on a transceiver writes, the schedule not among it (R328). -/
theorem exec_trx_frame {i : Instr} {s t : State} {k : Nat} (hk : trxOf i = some k) (h : exec i s = .next t) :
    ∃ v y o n, t = { s with trx := s.trx.set k v, y := y, outcome := o, draws := n } := by
  obtain ⟨u, hu⟩ := exec_finds_trx hk h
  have ha := exec_alikeOn hk (.refl hu)
  rw [h] at ha
  cases ha
  exact ⟨_, _, _, _, rfl⟩

/-- An operation on no transceiver writes none (R328). -/
theorem exec_trx_eq {i : Instr} {s t : State} (hi : trxOf i = none) (h : exec i s = .next t) : t.trx = s.trx := by
  cases exec_cases h with
  | reported _ _ ht | scheduled _ _ _ _ _ ht => rw [ht]
  | acted k _ _ _ _ _ hk => cases hi.symm.trans hk

end Sys2Proof.Machine

/-! PROOFS. The statements about failures and about the instances sharing nothing (R302, R328). -/

namespace Sys2Proof.Machine

/-- Settles O36: only a branch that writes `IDLE` reports a failure, and the invariant, which the act step keeps, has both
units stopped there. -/
theorem failureLeavesTheTransceiverIdleAndStopped : Obligations.FailureLeavesTheTransceiverIdleAndStopped := by
  intro s k t q now hk hp hi
  obtain ⟨u, hu, hrow⟩ := Trx.act_inTable hi.stores q
  refine ⟨u, execProcessEvents_act hk hp hu, fun hf => ?_⟩
  have hidle := Trx.act_state_of_failure hu hf
  obtain ⟨htx, hrx, hprep⟩ := (Trx.inv_act hi hp hu).stopped_of_idle hidle
  exact ⟨hidle, htx, hrx, hprep, Trx.act_poll hu, hrow.of_failure hf⟩

/-- Settles O50: an operation on a transceiver replaces that one in the list, and an operation on none leaves the list. -/
theorem operationsStayInTheirInstance : Obligations.OperationsStayInTheirInstance := by
  intro i s t h
  obtain ⟨-, -, hlen⟩ := exec_frame h
  refine ⟨hlen, fun k hk => ?_, fun hi => exec_trx_eq hi h⟩
  obtain ⟨v, y, o, n, rfl⟩ := exec_trx_frame hk h
  exact ⟨rfl, rfl, fun j hj => List.getElem?_set_ne hj.symm⟩

/-- Settles O51: the two machines have one view of the transceiver, so the operation comes out alike on it. -/
theorem instanceLearnsNothingFromTheRest : Obligations.InstanceLearnsNothingFromTheRest := by
  intro i k s s' t hk hcfg htime hlines hdraws htrx h
  obtain ⟨u, hu⟩ := exec_finds_trx hk h
  have hv : SameView k u s s' := ⟨hcfg.symm, htime.symm, hlines.symm, hdraws.symm, hu, htrx ▸ hu⟩
  have ha := exec_alikeOn hk hv
  rw [h] at ha
  exact ha.of_next hv

end Sys2Proof.Machine

/-! SUPPORT. What a `PROCESS_EVENTS` call leaves when handlers come between its snapshot step and its act step: the handlers as
one function on the transceiver, and what it does in each state (R216, R262 to R267, R366). -/

namespace Sys2Proof.Machine

/-! ### A handler at its own time -/

/-- The transceiver after the handler of the signal `h.2` at the time `h.1`; a signal that is not enabled changes nothing
(R264, R267; log entry 19). -/
def Trx.handle (c : Cfg) (t : Trx) (h : Word64 × Instr) : Trx :=
  match h.2 with
  | .evTxdone _ => if t.txDoneEnabled then t.onTxDone c h.1.toNat else t
  | .evRxsig _ => if t.captureEnabled then t.onRxSig h.1 else t
  | _ => t

/-- The operation is one of the two signals of transceiver `k` (R260). -/
abbrev IsSignal (k : Nat) (i : Instr) : Prop := i = .evTxdone k ∨ i = .evRxsig k

section
variable {c : Cfg} {s : State} {k : Nat} {t u : Trx} {now h : Word64} {handlers : List (Word64 × Instr)}

/-- `Trx.handle` is what a signal does in the machine (R262, R266). -/
theorem exec_signal (hk : s.trx[k]? = some t) {p : Word64 × Instr} (hp : IsSignal k p.2) :
    exec p.2 { s with time := p.1 } = .next ({ s with time := p.1 }.setTrx k (t.handle s.cfg p)) := by
  obtain ⟨h, i⟩ := p
  have hk' : { s with time := h }.trx[k]? = some t := hk
  have hsame : { s with time := h }.setTrx k t = { s with time := h } := State.setTrx_self hk'
  obtain rfl | rfl : IsSignal k i := hp
  · simp only [exec, execEvTxdone, onTrx_some hk', Trx.handle]
    split
    · rfl
    · rw [hsame]
  · simp only [exec, execEvRxsig, onTrx_some hk', Trx.handle]
    split
    · rfl
    · rw [hsame]

/-- The signal that ends a write which expects a response starts the read (R262, R264). -/
theorem Trx.handle_writeEnd_of_respExpected (ha : t.txArmed = true) (hend : t.txPos = t.txseq.length)
    (hresp : t.respExpected = true) : t.handle c (h, .evTxdone k) = { (t.txStop.rxStart.dirSet .input) with
      deadline := deadlineFrom c h.toNat t.readTimeout, state := .waitingForReadStart } :=
  (if_pos (t.txDoneEnabled_iff.2 ⟨ha, hend⟩)).trans (Trx.onTxDone_of_respExpected hresp c h.toNat)

/-- The signal that ends a write which expects none completes it (R262, R264). -/
theorem Trx.handle_writeEnd_of_not_respExpected (ha : t.txArmed = true) (hend : t.txPos = t.txseq.length)
    (hresp : t.respExpected = false) : t.handle c (h, .evTxdone k) = { t.txStop with state := .writeComplete } :=
  (if_pos (t.txDoneEnabled_iff.2 ⟨ha, hend⟩)).trans (Trx.onTxDone_of_not_respExpected hresp c h.toNat)

/-- The signal that starts a frame (R266, R267). -/
theorem Trx.handle_frameStart (hst : t.state = .waitingForReadStart) (ha : t.rxArmed = true) :
    t.handle c (h, .evRxsig k) =
      { t with lastProgress := t.rxCount, lastProgressTime := h, state := .readInProgress } :=
  (if_pos ha).trans (Trx.onRxSig_of_waiting hst h)

/-- The signal that ends it (R266, R267). -/
theorem Trx.handle_frameEnd (hst : t.state = .readInProgress) (ha : t.rxArmed = true) :
    t.handle c (h, .evRxsig k) = { t.rxStop with state := .readComplete } :=
  (if_pos ha).trans (Trx.onRxSig_of_reading hst h)

/-- No handler opens or closes a call (R39). -/
@[simp] theorem Trx.handle_poll (c : Cfg) (t : Trx) (p : Word64 × Instr) : (t.handle c p).poll = t.poll := by
  unfold Trx.handle Trx.onTxDone Trx.onRxSig
  split
  · split
    · split <;> rfl
    · rfl
  · split
    · split <;> rfl
    · rfl
  · rfl

/-- Every handler keeps the invariant (R46). -/
theorem Trx.inv_handle (hi : t.Inv c) (p : Word64 × Instr) : (t.handle c p).Inv c := by
  unfold Trx.handle
  split
  · split
    · exact Trx.inv_onTxDone hi ‹_› _
    · exact hi
  · split
    · exact Trx.inv_onRxSig hi ‹_› _
    · exact hi
  · exact hi

/-! ### Handlers one after another -/

/-- The transceiver after these handlers. -/
def Trx.handleAll (c : Cfg) (t : Trx) (handlers : List (Word64 × Instr)) : Trx := handlers.foldl (Trx.handle c) t

/-- No handlers leave it as it was. -/
@[simp] theorem Trx.handleAll_nil (c : Cfg) (t : Trx) : t.handleAll c [] = t := rfl

/-- Each handler finds what the one before it left. -/
@[simp] theorem Trx.handleAll_cons (c : Cfg) (t : Trx) (p : Word64 × Instr) (ps : List (Word64 × Instr)) :
    t.handleAll c (p :: ps) = (t.handle c p).handleAll c ps := rfl

/-- A call stays open across them, with its snapshot (R39). -/
theorem Trx.handleAll_poll (c : Cfg) (t : Trx) (handlers : List (Word64 × Instr)) :
    (t.handleAll c handlers).poll = t.poll := by
  induction handlers generalizing t with
  | nil => rfl
  | cons p ps ih => rw [Trx.handleAll_cons, ih, Trx.handle_poll]

/-- Together they keep the invariant (R46). -/
theorem Trx.inv_handleAll (hi : t.Inv c) (handlers : List (Word64 × Instr)) : (t.handleAll c handlers).Inv c := by
  induction handlers generalizing t with
  | nil => exact hi
  | cons p ps ih => exact ih (Trx.inv_handle hi p)

/-- `Trx.handleAll` is what a run of signals does in the machine. -/
theorem runOpsAt_signals (hs : ∀ p ∈ handlers, IsSignal k p.2) (hk : s.trx[k]? = some t) :
    ∃ s', runOpsAt handlers s = .next s' ∧ s'.cfg = s.cfg ∧ s'.trx[k]? = some (t.handleAll s.cfg handlers) := by
  induction handlers generalizing s t with
  | nil => exact ⟨s, rfl, rfl, hk⟩
  | cons p ps ih =>
    obtain ⟨hp, hps⟩ := List.forall_mem_cons.1 hs
    obtain ⟨s', hr, hcfg, hk'⟩ := ih hps (s := { s with time := p.1 }.setTrx k (t.handle s.cfg p))
      (List.getElem?_set_self (List.getElem?_eq_some_iff.1 hk).1)
    exact ⟨s', by rw [runOpsAt, exec_signal hk hp]; exact hr, hcfg, hk'⟩

/-- A call with handlers between its two steps: the act step, on the call's own snapshot and `now`, of the transceiver the
handlers left (R216, R218). -/
theorem pollAcross_signals (hk : s.trx[k]? = some t) (hp : t.poll = none) (hs : ∀ p ∈ handlers, IsSignal k p.2)
    (hu : ((t.snapshot now).handleAll s.cfg handlers).act s.cfg ⟨t.state, now⟩ = .ok u) :
    ∃ s', pollAcross k now handlers s = .next s' ∧ s'.trx[k]? = some u := by
  have hsnap : exec (.processEvents k now) { s with time := now } =
      .next ({ s with time := now }.setTrx k (t.snapshot now)) := snapshotReadsStateOnce _ k t now hk hp
  have hset := fun v : Trx => List.getElem?_set_self (a := v) (List.getElem?_eq_some_iff.1 hk).1
  obtain ⟨s₁, hr, hcfg, hk₁⟩ := runOpsAt_signals (s := { s with time := now }.setTrx k (t.snapshot now)) hs (hset _)
  have hact : exec (.processEvents k now) s₁ = .next (afterAct s₁ k u) :=
    execProcessEvents_act hk₁ (Trx.handleAll_poll _ _ _) (by rw [hcfg]; exact hu)
  refine ⟨afterAct s₁ k u, ?_, List.getElem?_set_self (List.getElem?_eq_some_iff.1 hk₁).1⟩
  simp only [pollAcross, runOpsAt, hsnap, hr, hact]

/-! ### What the handlers leave, and the act step after them (R366) -/

/-- A frame that starts, or starts and ends, while its start is waited for. The deadline stays (R266). -/
theorem Trx.handleAll_frame (c : Cfg) (k : Nat) (h₁ h₂ : Word64) (hst : t.state = .waitingForReadStart)
    (ha : t.rxArmed = true) :
    ∀ p ∈ [([(h₁, Instr.evRxsig k)], TState.readInProgress), ([(h₁, .evRxsig k), (h₂, .evRxsig k)], .readComplete)],
      (∀ q ∈ p.1, IsSignal k q.2) ∧ (t.handleAll c p.1).state = p.2 ∧
      (t.handleAll c p.1).rxArmed = decide (p.2 ≠ .readComplete) ∧ (t.handleAll c p.1).deadline = t.deadline := by
  simp [-Prod.forall, IsSignal, Trx.handle_frameStart hst ha, Trx.handle_frameEnd, ha]

/-- A write that completes and expects a response, with none, the start or all of the response after it. The deadline is the
one that the handler set for the read (R262). -/
theorem Trx.handleAll_response (c : Cfg) (k : Nat) (h₁ h₂ h₃ : Word64) (ha : t.txArmed = true)
    (hend : t.txPos = t.txseq.length) (hresp : t.respExpected = true) :
    ∀ p ∈ [([(h₁, Instr.evTxdone k)], TState.waitingForReadStart),
        ([(h₁, .evTxdone k), (h₂, .evRxsig k)], .readInProgress),
        ([(h₁, .evTxdone k), (h₂, .evRxsig k), (h₃, .evRxsig k)], .readComplete)],
      (∀ q ∈ p.1, IsSignal k q.2) ∧ (t.handleAll c p.1).state = p.2 ∧
      (t.handleAll c p.1).rxArmed = decide (p.2 ≠ .readComplete) ∧
      (t.handleAll c p.1).deadline = deadlineFrom c h₁.toNat t.readTimeout := by
  simp [-Prod.forall, IsSignal, Trx.handle_writeEnd_of_respExpected ha hend hresp, Trx.handle_frameStart, Trx.handle_frameEnd]

/-- A deadline that a handler set has not passed at a `now` that is not after the handler (R262, R366). -/
theorem Trx.expired_of_deadlineFrom {tm : Word64} (hd : t.deadline = deadlineFrom c h.toNat tm)
    (hle : now.toNat ≤ h.toNat) : t.expired now = false := by
  refine Trx.expired_eq_false fun d hd' => ?_
  rw [hd, deadlineFrom] at hd'
  split at hd'
  · cases hd'
  · cases hd'
    omega

/-- The act step of a write finds the deadline passed, or leaves the state as the handlers left it (R234, R235). -/
theorem Trx.actDeadline_writing_outcome (now : Word64) (t : Trx) :
    (∀ d, t.deadline = some d → d < now.toNat →
      (t.actDeadline now .writeInProgress).state = .idle ∧ (t.actDeadline now .writeInProgress).dir = .input ∧
      (t.actDeadline now .writeInProgress).res = ⟨.writeFailed, [], 0, .timeout⟩) ∧
    ((∀ d, t.deadline = some d → now.toNat ≤ d) →
      (t.actDeadline now .writeInProgress).state = t.state ∧
      (t.actDeadline now .writeInProgress).res = ⟨.writeInProgress, [], 0, .none⟩) := by
  refine ⟨fun d hd hlt => ?_, fun hd => ?_⟩
  · rw [Trx.actDeadline_of_writing (Trx.expired_of_lt hd hlt) (by simp)]
    exact ⟨rfl, rfl, rfl⟩
  · rw [Trx.actDeadline_of_not_expired (Trx.expired_eq_false hd)]
    exact ⟨rfl, rfl⟩

/-- So does the act step of a read that is waited for (R233, R235). -/
theorem Trx.actDeadline_waiting_outcome (now : Word64) (t : Trx) :
    (∀ d, t.deadline = some d → d < now.toNat →
      (t.actDeadline now .waitingForReadStart).state = .idle ∧
      (t.actDeadline now .waitingForReadStart).rxArmed = false ∧
      (t.actDeadline now .waitingForReadStart).res = ⟨.readFailed, [], 0, .timeout⟩) ∧
    ((∀ d, t.deadline = some d → now.toNat ≤ d) →
      (t.actDeadline now .waitingForReadStart).state = t.state ∧
      (t.actDeadline now .waitingForReadStart).rxArmed = t.rxArmed ∧
      (t.actDeadline now .waitingForReadStart).res = ⟨.waitingForReadStart, [], 0, .none⟩) := by
  refine ⟨fun d hd hlt => ?_, fun hd => ?_⟩
  · rw [Trx.actDeadline_of_waiting (Trx.expired_of_lt hd hlt)]
    exact ⟨rfl, rfl, rfl⟩
  · rw [Trx.actDeadline_of_not_expired (Trx.expired_eq_false hd)]
    exact ⟨rfl, rfl, rfl⟩

/-- The branch of a read under way leaves capture stopped where it was stopped (R229 to R231). -/
theorem Trx.actReadInProgress_rxArmed (c : Cfg) (now : Word64) (ha : t.rxArmed = false) :
    (t.actReadInProgress c now).rxArmed = false := by
  unfold Trx.actReadInProgress
  split
  · rfl
  · split
    · rfl
    · split <;> exact ha

/-- The branch of a read under way where the read goes on: the marker stands at the counter, and at the old time where it
stood there before (R231). -/
theorem Trx.actReadInProgress_of_running (hf : t.rxCount < c.rxBufferWords)
    (hw : t.rxCount ≠ t.lastProgress ∨ now.toNat ≤ t.lastProgressTime.toNat + c.interWordTimeoutUs) :
    t.actReadInProgress c now =
      { t with
        lastProgress := t.rxCount
        lastProgressTime := if t.rxCount = t.lastProgress then t.lastProgressTime else now }.reportPhase .readInProgress := by
  by_cases hm : t.rxCount = t.lastProgress
  · rw [Trx.actReadInProgress_of_still hf hm (hw.resolve_left (not_not.2 hm)), if_pos hm]
    exact congrArg (fun n => { t with lastProgress := n }.reportPhase .readInProgress) hm.symm
  · rw [Trx.actReadInProgress_of_moved hf hm, if_neg hm]

/-- The three outcomes of that branch; only where the read goes on does `STATE` stay as the handlers left it (R229 to
R231). -/
theorem Trx.actReadInProgress_outcome (c : Cfg) (now : Word64) (t : Trx) :
    (c.rxBufferWords ≤ t.rxCount → (t.actReadInProgress c now).state = .idle ∧
      (t.actReadInProgress c now).res = ⟨.readFailed, [], 0, .bufferOverflow⟩) ∧
    (t.rxCount < c.rxBufferWords → t.rxCount = t.lastProgress →
      t.lastProgressTime.toNat + c.interWordTimeoutUs < now.toNat → (t.actReadInProgress c now).state = .idle ∧
      (t.actReadInProgress c now).res = ⟨.readFailed, [], 0, .timeout⟩) ∧
    (t.rxCount < c.rxBufferWords →
      t.rxCount ≠ t.lastProgress ∨ now.toNat ≤ t.lastProgressTime.toNat + c.interWordTimeoutUs →
      (t.actReadInProgress c now).state = t.state ∧ (t.actReadInProgress c now).lastProgress = t.rxCount ∧
      (t.actReadInProgress c now).res = ⟨.readInProgress, [], 0, .none⟩ ∧
      (t.actReadInProgress c now).lastProgressTime =
        if t.rxCount = t.lastProgress then t.lastProgressTime else now) := by
  refine ⟨fun hf => ?_, fun hf hm hw => ?_, fun hf hw => ?_⟩
  · rw [Trx.actReadInProgress_of_full hf]
    exact ⟨rfl, rfl⟩
  · rw [Trx.actReadInProgress_of_stalled hf hm hw]
    exact ⟨rfl, rfl⟩
  · rw [Trx.actReadInProgress_of_running hf hw]
    exact ⟨rfl, rfl, rfl, rfl⟩

end

end Sys2Proof.Machine

/-! PROOFS. The statements about reset and about the handlers that come within a call (spec/70_reset_and_hazards.md). -/

namespace Sys2Proof.Machine

/-- Settles O49: the act step of the call, chosen by the snapshot, of the transceiver that the handlers left. -/
theorem staleSnapshotOutcomes : Obligations.StaleSnapshotOutcomes := by
  intro s k t now h₁ h₂ h₃ hk hi hp hle
  refine ⟨fun hst hend hresp p hmem => ?_, fun hst hend hresp => ?_, fun hst p hmem => ?_, fun hst => ?_, fun hst => ?_,
    fun handlers hs => ?_⟩
  · obtain ⟨hsig, hstate, harmed, hdl⟩ :=
      Trx.handleAll_response (t := t.snapshot now) s.cfg k h₁ h₂ h₃ (hi.writing hst).1 hend hresp p hmem
    obtain ⟨s', hs', hu⟩ := pollAcross_signals hk hp hsig (Trx.act_of_deadlineSnaps (by simp [deadlineSnaps, hst]))
    rw [Trx.actDeadline_of_not_expired (Trx.expired_of_deadlineFrom hdl hle)] at hu
    exact ⟨s', _, hs', hu, hstate, harmed, by rw [Trx.reportPhase_res, hst]⟩
  · have hdone : (t.snapshot now).handle s.cfg (h₁, .evTxdone k) = _ :=
      Trx.handle_writeEnd_of_not_respExpected (hi.writing hst).1 hend hresp
    obtain ⟨s', hs', hu⟩ := pollAcross_signals (handlers := [(h₁, .evTxdone k)]) hk hp (by simp [IsSignal])
      (Trx.act_of_deadlineSnaps (by simp [deadlineSnaps, hst]))
    rw [Trx.handleAll_cons, Trx.handleAll_nil, hdone, hst] at hu
    exact ⟨s', _, hs', hu, Trx.actDeadline_writing_outcome now { (t.snapshot now).txStop with state := .writeComplete }⟩
  · obtain ⟨hsig, hstate, harmed, hdl⟩ :=
      Trx.handleAll_frame (t := t.snapshot now) s.cfg k h₁ h₂ hst (hi.reading (.inl hst)).1 p hmem
    obtain ⟨s', hs', hu⟩ := pollAcross_signals hk hp hsig (Trx.act_of_deadlineSnaps (by simp [deadlineSnaps, hst]))
    have hout := Trx.actDeadline_waiting_outcome now ((t.snapshot now).handleAll s.cfg p.1)
    rw [hdl, hstate, harmed] at hout
    rw [hst] at hu
    exact ⟨s', _, hs', hu, hout⟩
  · have hend : (t.snapshot now).handle s.cfg (h₁, .evRxsig k) = _ :=
      Trx.handle_frameEnd hst (hi.reading (.inr hst)).1
    obtain ⟨s', hs', hu⟩ := pollAcross_signals (handlers := [(h₁, .evRxsig k)]) hk hp (by simp [IsSignal])
      (Trx.act_of_readInProgress hst)
    rw [Trx.handleAll_cons, Trx.handleAll_nil, hend] at hu
    exact ⟨s', _, hs', hu, Trx.actReadInProgress_rxArmed _ _ rfl,
      Trx.actReadInProgress_outcome s.cfg now { (t.snapshot now).rxStop with state := .readComplete }⟩
  · have hstopped : t.txArmed = false ∧ t.rxArmed = false := by
      simp only [List.mem_cons, List.not_mem_nil, or_false] at hst
      exact hst.elim hi.idle hi.complete
    exact ⟨exec_evTxdone_of_not_enabled hk (.inl hstopped.1), exec_evRxsig_of_not_armed hk hstopped.2⟩
  · have hinv := Trx.inv_handleAll (Trx.inv_snapshot hi now) handlers
    obtain ⟨u, hu⟩ := Trx.act_ok ⟨t.state, now⟩ hinv.stores
    obtain ⟨s', hs', hk'⟩ := pollAcross_signals hk hp hs hu
    exact ⟨s', u, hs', hk', Trx.inv_act hinv (Trx.handleAll_poll _ _ _) hu, Trx.act_poll hu⟩

/-- Settles O44: reset makes every bucket and every instance a copy of one value, which is the table's. -/
theorem resetLeavesTheMachineAtRest : Obligations.ResetLeavesTheMachineAtRest := by
  intro c eps n
  refine ⟨rfl, rfl, List.length_replicate, rfl, List.length_replicate, fun b hb => List.eq_of_mem_replicate hb,
    fun t ht => ?_⟩
  obtain rfl : t = Trx.reset c := List.eq_of_mem_replicate ht
  exact ⟨rfl, rfl, rfl, rfl, rfl, rfl, rfl, rfl, rfl, rfl, rfl, rfl, rfl, rfl, Trx.rxRead_eq rfl, rfl, rfl, rfl⟩

/-- Settles O45: the two steps of the call write back the instance as it was, and no bucket has a head. -/
theorem firstPollAfterResetReportsIdle : Obligations.FirstPollAfterResetReportsIdle := by
  intro c eps n k now hkn
  have hk : (State.resetWith c eps n).trx[k]? = some (Trx.reset c) := List.getElem?_replicate_of_lt hkn
  have hscan : popScan now.toNat (State.resetWith c eps n).sched = none := by
    refine (popScan_none_iff _).2 fun p h tl hp => ?_
    cases List.eq_of_mem_replicate (List.mem_of_getElem? hp)
  have hsnap : exec (.processEvents k now) (State.resetWith c eps n) =
      .next ((State.resetWith c eps n).setTrx k ((Trx.reset c).snapshot now)) := snapshotReadsStateOnce _ k _ now hk rfl
  have hact : exec (.processEvents k now) ((State.resetWith c eps n).setTrx k ((Trx.reset c).snapshot now)) =
      .next (afterAct ((State.resetWith c eps n).setTrx k ((Trx.reset c).snapshot now)) k (Trx.reset c)) :=
    execProcessEvents_act (List.getElem?_set_self (List.getElem?_eq_some_iff.1 hk).1) rfl (Trx.act_of_idle rfl)
  have hself : (State.resetWith c eps n).trx.set k (Trx.reset c) = (State.resetWith c eps n).trx :=
    congrArg State.trx (State.setTrx_self hk)
  refine ⟨?_, execPopnext_none hscan⟩
  rw [runOps_cons hsnap, runOps_cons hact]
  simp only [runOps, afterAct, State.setTrx, List.set_set, hself]
  rfl

/-- Settles O56: the reset turn is taken, with no operation run. -/
theorem resetTurnRestoresEveryElement : Obligations.ResetTurnRestoresEveryElement := by
  intro s rest hturns
  simp only [step, nextMove, hturns, applyReset]

end Sys2Proof.Machine
